-- ==== Sys2Proof/Word.lean ====
section
/-! DEFINITION. The words of the block: the 32-bit command and register word and the two frames. -/

namespace Sys2Proof

/-- A command word, a data word or a register (00_scope.md R20, 30_encoding.md R90). -/
abbrev Word := BitVec 32

/-- A 64-bit command frame, frame 1 of the dual-frame variant (00_scope.md R10). Frame bit `i`,
counted from the first transmitted bit, is bit `i` of the vector (R22), so the number of a slice is
`leval` of its bits (R24). -/
abbrev FrameA := BitVec 64

/-- A 152-bit frame: the single-frame variant's only frame and frame 2 of the dual-frame variant
(00_scope.md R10); the bits are numbered as in `FrameA`. -/
abbrev FrameB := BitVec 152

end Sys2Proof
end

