-- ==== Sys2Proof/Syntax.lean ====
section
/-! DEFINITION. The commands: one constructor per row of spec/opcode_table.json (30_encoding.md R95). -/

namespace Sys2Proof

/-- The operand of an enumeration setter (30_encoding.md R94, 43_fields.md R192): the index of a named
value (R = 0), or a raw code (R = 1). -/
inductive EnumArg where
  | named (index : Nat)
  | raw (code : BitVec 8)
  deriving DecidableEq, Repr

/-- A command with its operands (30_encoding.md R94). `dur` is a duration in microseconds, `f` the frame
selector F, `start` and `len` a bit range, `k` a byte number, `t2` a temperature in half-degrees. -/
inductive Instr where
  | nop
  | capstart
  | pulse (dur : Nat)
  | space (dur : Nat)
  | timeout
  | popcmd
  | chklead
  | clsm (dur : Nat)
  | clss (dur : Nat)
  | newf
  | getr (f : BitVec 2) (start len : Nat)
  | setr (f : BitVec 2) (start len : Nat) (data : Word)
  | getb (f : BitVec 2) (k : Nat)
  | setb (f : BitVec 2) (k : Nat) (v : BitVec 8)
  | settemp (t2 : Nat)
  | gettemp
  | setmode (arg : EnumArg)
  | getmode
  | setfpwr (arg : EnumArg)
  | getfpwr
  | setfang (arg : EnumArg)
  | getfang
  | setfan (arg : EnumArg)
  | getfan
  | setswing (arg : EnumArg)
  | getswing
  | ckgen
  | ckchk
  | getck
  | emit
  deriving DecidableEq, Repr

end Sys2Proof
end

