-- ==== Sys2Proof/WellFormed.lean ====
section
/-! DEFINITION. Which commands can be written in a command word: every number fits its operand field
(30_encoding.md R91, R94; 93_implementation_defined.md U16). -/

namespace Sys2Proof

/-- A duration fits the 24-bit DUR field; the host refuses a longer one before it issues the event
(93_implementation_defined.md U16). -/
def durFits (dur : Nat) : Bool := decide (dur < 2 ^ 24)

/-- A start bit or byte number fits the 8-bit IDX field. -/
def idxFits (idx : Nat) : Bool := decide (idx < 2 ^ 8)

/-- A range length fits the 6-bit LEN field. -/
def lenFits (len : Nat) : Bool := decide (len < 2 ^ 6)

/-- A number fits the 8-bit VAL field. -/
def valFits (val : Nat) : Bool := decide (val < 2 ^ 8)

/-- A setter's operand fits the R and VAL fields. -/
def EnumArg.fits : EnumArg → Bool
  | .named index => valFits index
  | .raw _ => true

/-- Every operand fits its field. -/
def Instr.wellFormed : Instr → Bool
  | .nop => true
  | .capstart => true
  | .pulse dur => durFits dur
  | .space dur => durFits dur
  | .timeout => true
  | .popcmd => true
  | .chklead => true
  | .clsm dur => durFits dur
  | .clss dur => durFits dur
  | .newf => true
  | .getr _ start len => idxFits start && lenFits len
  | .setr _ start len _ => idxFits start && lenFits len
  | .getb _ k => idxFits k
  | .setb _ k _ => idxFits k
  | .settemp t2 => valFits t2
  | .gettemp => true
  | .setmode arg => arg.fits
  | .getmode => true
  | .setfpwr arg => arg.fits
  | .getfpwr => true
  | .setfang arg => arg.fits
  | .getfang => true
  | .setfan arg => arg.fits
  | .getfan => true
  | .setswing arg => arg.fits
  | .getswing => true
  | .ckgen => true
  | .ckchk => true
  | .getck => true
  | .emit => true

end Sys2Proof
end

