-- ==== Sys2Proof/Decode.lean ====
section
/-! DEFINITION. The decoder, total on any words, and the encoder, both from the opcode map and the
formats of 30_encoding.md R91 to R96. -/

namespace Sys2Proof

/-- The 30 opcodes of 30_encoding.md R95, by mnemonic. -/
inductive Opcode where
  | nop | capstart | pulse | space | timeout | popcmd | chklead | clsm | clss
  | newf | getr | setr | getb | setb
  | settemp | gettemp | setmode | getmode | setfpwr | getfpwr | setfang | getfang
  | setfan | getfan | setswing | getswing
  | ckgen | ckchk | getck | emit
  deriving DecidableEq, Repr

/-- The column OP of 30_encoding.md R95. -/
def Opcode.bits : Opcode → BitVec 6
  | .nop => 0x00
  | .capstart => 0x01
  | .pulse => 0x02
  | .space => 0x03
  | .timeout => 0x04
  | .popcmd => 0x05
  | .chklead => 0x06
  | .clsm => 0x08
  | .clss => 0x09
  | .newf => 0x10
  | .getr => 0x11
  | .setr => 0x12
  | .getb => 0x13
  | .setb => 0x14
  | .settemp => 0x20
  | .gettemp => 0x21
  | .setmode => 0x22
  | .getmode => 0x23
  | .setfpwr => 0x24
  | .getfpwr => 0x25
  | .setfang => 0x26
  | .getfang => 0x27
  | .setfan => 0x28
  | .getfan => 0x29
  | .setswing => 0x2A
  | .getswing => 0x2B
  | .ckgen => 0x30
  | .ckchk => 0x31
  | .getck => 0x32
  | .emit => 0x38

/-- The bits that must be zero: the reserved bits of the command's format (30_encoding.md R91) and its
"must be 0" fields (R95, R92). -/
def Opcode.zeroMask : Opcode → Word
  -- format D: bits 25:24
  | .pulse | .space | .clsm | .clss => 0x03000000
  -- format A: bits 15:14, with the fields that the row leaves unused
  | .getr | .setr => 0x0000C0FF
  | .getb => 0x0000FFFF
  | .setb => 0x0000FF00
  -- format V: bits 24:8, and R for SETTEMP
  | .settemp => 0x03FFFF00
  | .setmode | .setfpwr | .setfang | .setfan | .setswing => 0x01FFFF00
  -- format N: bits 25:0
  | .nop | .capstart | .timeout | .popcmd | .chklead | .newf | .gettemp | .getmode | .getfpwr
  | .getfang | .getfan | .getswing | .ckgen | .ckchk | .getck | .emit => 0x03FFFFFF

/-- The opcode map, as a list. -/
def Opcode.all : List Opcode :=
  [.nop, .capstart, .pulse, .space, .timeout, .popcmd, .chklead, .clsm, .clss, .newf, .getr, .setr,
    .getb, .setb, .settemp, .gettemp, .setmode, .getmode, .setfpwr, .getfpwr, .setfang, .getfang,
    .setfan, .getfan, .setswing, .getswing, .ckgen, .ckchk, .getck, .emit]

/-- The opcode with these bits; none where they are reserved (30_encoding.md R96). -/
def Opcode.ofBits (b : BitVec 6) : Option Opcode := Opcode.all.find? (fun op => op.bits == b)

/-- `OP` = word[31:26] (30_encoding.md R90). -/
def opField (w : Word) : BitVec 6 := w.extractLsb' 26 6

/-- `F` = word[25:24]. -/
def fField (w : Word) : BitVec 2 := w.extractLsb' 24 2

/-- `R` = word[25]. -/
def rField (w : Word) : BitVec 1 := w.extractLsb' 25 1

/-- `IDX` = word[23:16]. -/
def idxField (w : Word) : BitVec 8 := w.extractLsb' 16 8

/-- `LEN` = word[13:8]. -/
def lenField (w : Word) : BitVec 6 := w.extractLsb' 8 6

/-- `VAL` = word[7:0]. -/
def valField (w : Word) : BitVec 8 := w.extractLsb' 0 8

/-- `DUR` = word[23:0]. -/
def durField (w : Word) : BitVec 24 := w.extractLsb' 0 24

/-- A setter's operand from R and VAL (30_encoding.md R94). -/
def enumField (w : Word) : EnumArg :=
  if rField w = 0 then .named (valField w).toNat else .raw (valField w)

/-- The command of an opcode, its operands taken from the command word and, for SETR, the data word
(30_encoding.md R94). -/
def operandsOf (op : Opcode) (w data : Word) : Instr :=
  match op with
  | .nop => .nop
  | .capstart => .capstart
  | .pulse => .pulse (durField w).toNat
  | .space => .space (durField w).toNat
  | .timeout => .timeout
  | .popcmd => .popcmd
  | .chklead => .chklead
  | .clsm => .clsm (durField w).toNat
  | .clss => .clss (durField w).toNat
  | .newf => .newf
  | .getr => .getr (fField w) (idxField w).toNat (lenField w).toNat
  | .setr => .setr (fField w) (idxField w).toNat (lenField w).toNat data
  | .getb => .getb (fField w) (idxField w).toNat
  | .setb => .setb (fField w) (idxField w).toNat (valField w)
  | .settemp => .settemp (valField w).toNat
  | .gettemp => .gettemp
  | .setmode => .setmode (enumField w)
  | .getmode => .getmode
  | .setfpwr => .setfpwr (enumField w)
  | .getfpwr => .getfpwr
  | .setfang => .setfang (enumField w)
  | .getfang => .getfang
  | .setfan => .setfan (enumField w)
  | .getfan => .getfan
  | .setswing => .setswing (enumField w)
  | .getswing => .getswing
  | .ckgen => .ckgen
  | .ckchk => .ckchk
  | .getck => .getck
  | .emit => .emit

/-- Why a command word is no command (60_exceptions.md R250, code 9). -/
inductive IllegalWord where
  /-- The opcode is reserved (30_encoding.md R96). -/
  | reservedOpcode
  /-- A reserved or must-be-0 field is not zero (30_encoding.md R92). -/
  | nonzeroReserved
  deriving DecidableEq, Repr

/-- What stands at the head of the command port. -/
inductive Decoded where
  /-- No complete command yet: no word, or a SETR word without its data word (30_encoding.md R93). -/
  | waiting
  /-- An illegal command word, and the words after it. -/
  | illegal (why : IllegalWord) (rest : List Word)
  /-- A command, and the words after it. -/
  | command (i : Instr) (rest : List Word)
  deriving DecidableEq, Repr

/-- Decodes a command word whose opcode is `op`, with its data word, before the words `rest`. -/
def decodeAs (op : Opcode) (w data : Word) (rest : List Word) : Decoded :=
  if w &&& op.zeroMask = 0 then .command (operandsOf op w data) rest
  else .illegal .nonzeroReserved rest

/-- The decoder. The opcode alone decides the length: two words for SETR, one for every other word
(30_encoding.md R93), a reserved opcode's among them (R96). A SETR word with a non-zero reserved field
takes its data word too (DEDUCED, log 7). -/
def decode : List Word → Decoded
  | [] => .waiting
  | w :: rest =>
    match Opcode.ofBits (opField w) with
    | none => .illegal .reservedOpcode rest
    | some .setr =>
      match rest with
      | [] => .waiting
      | data :: rest' => decodeAs .setr w data rest'
    | some op => decodeAs op w 0 rest

/-- The opcode of a command. -/
def Instr.opcode : Instr → Opcode
  | .nop => .nop
  | .capstart => .capstart
  | .pulse _ => .pulse
  | .space _ => .space
  | .timeout => .timeout
  | .popcmd => .popcmd
  | .chklead => .chklead
  | .clsm _ => .clsm
  | .clss _ => .clss
  | .newf => .newf
  | .getr _ _ _ => .getr
  | .setr _ _ _ _ => .setr
  | .getb _ _ => .getb
  | .setb _ _ _ => .setb
  | .settemp _ => .settemp
  | .gettemp => .gettemp
  | .setmode _ => .setmode
  | .getmode => .getmode
  | .setfpwr _ => .setfpwr
  | .getfpwr => .getfpwr
  | .setfang _ => .setfang
  | .getfang => .getfang
  | .setfan _ => .setfan
  | .getfan => .getfan
  | .setswing _ => .setswing
  | .getswing => .getswing
  | .ckgen => .ckgen
  | .ckchk => .ckchk
  | .getck => .getck
  | .emit => .emit

/-- A field's bits at bit `lo` of a command word. -/
def fieldBits {n : Nat} (lo : Nat) (v : BitVec n) : Word := v.setWidth 32 <<< lo

/-- Format N: `OP << 26` (30_encoding.md R91, R101). -/
def wordN (op : Opcode) : Word := fieldBits 26 op.bits

/-- Format D: `OP << 26 | DUR` (30_encoding.md R91, R101). -/
def wordD (op : Opcode) (dur : Nat) : Word := fieldBits 26 op.bits ||| fieldBits 0 (BitVec.ofNat 24 dur)

/-- Format A: `OP << 26 | F << 24 | IDX << 16 | LEN << 8 | VAL` (30_encoding.md R91, R101). -/
def wordA (op : Opcode) (f : BitVec 2) (idx len : Nat) (val : BitVec 8) : Word :=
  fieldBits 26 op.bits ||| fieldBits 24 f ||| fieldBits 16 (BitVec.ofNat 8 idx) |||
    fieldBits 8 (BitVec.ofNat 6 len) ||| fieldBits 0 val

/-- Format V: `OP << 26 | R << 25 | VAL` (30_encoding.md R91, R101). -/
def wordV (op : Opcode) (r : BitVec 1) (val : BitVec 8) : Word :=
  fieldBits 26 op.bits ||| fieldBits 25 r ||| fieldBits 0 val

/-- Format V with a setter's operand. -/
def wordEnum (op : Opcode) : EnumArg → Word
  | .named index => wordV op 0 (BitVec.ofNat 8 index)
  | .raw code => wordV op 1 code

/-- The words of a command (30_encoding.md R101). -/
def encode (i : Instr) : List Word :=
  match i with
  | .pulse dur | .space dur | .clsm dur | .clss dur => [wordD i.opcode dur]
  | .getr f start len => [wordA i.opcode f start len 0]
  | .setr f start len data => [wordA i.opcode f start len 0, data]
  | .getb f k => [wordA i.opcode f k 0 0]
  | .setb f k v => [wordA i.opcode f k 0 v]
  | .settemp t2 => [wordV i.opcode 0 (BitVec.ofNat 8 t2)]
  | .setmode arg | .setfpwr arg | .setfang arg | .setfan arg | .setswing arg => [wordEnum i.opcode arg]
  | .nop | .capstart | .timeout | .popcmd | .chklead | .newf | .gettemp | .getmode | .getfpwr
  | .getfang | .getfan | .getswing | .ckgen | .ckchk | .getck | .emit => [wordN i.opcode]

/-- The words of an instruction given as one number, its first word in the low 32 bits: two words for
SETR, one for any other (30_encoding.md R93). -/
def wordsOfNumber (w : Nat) : List Word :=
  if opField (BitVec.ofNat 32 w) = Opcode.setr.bits then
    [BitVec.ofNat 32 w, BitVec.ofNat 32 (w / 2 ^ 32)]
  else [BitVec.ofNat 32 w]

/-- The command the decoder reads from an instruction whose low `nbits` bits are those of `w` and whose
other bits are zero. -/
def decodeTableWord (nbits w : Nat) : Option Instr :=
  match decode (wordsOfNumber (w % 2 ^ nbits)) with
  | .command i [] => some i
  | _ => none

end Sys2Proof
end

