-- ==== Sys2Proof/Config.lean ====
section
/-! DEFINITION. The constants of one block: the OPEN parameters of 00_scope.md R3 and R10 to R18,
their well-formedness, and the open constant that stands for the parameters of the block that
`State.reset` describes. No command writes any of them (10_state.md R41). -/

namespace Sys2Proof

/-- The protocol variant (00_scope.md R3). -/
inductive Variant where
  | sf
  | df
  deriving DecidableEq, Repr, Inhabited

/-- An entry of `DF_MISC_VAL` (00_scope.md R18): the misc bit is written, or kept. -/
inductive MiscVal where
  | keep
  | put (bit : Bool)
  deriving DecidableEq, Repr, Inhabited

/-- The single-frame field positions (00_scope.md R16); byte numbers count from 0. -/
structure SfLayout where
  modeByte : Nat
  tempByte : Nat
  tmodByte : Nat
  fanByte : Nat
  ckByte0 : Nat
  ckByte1 : Nat
  halfBit : Fin 8
  limitBit : Fin 8
  /-- `SF_TIMER_BYTES`, a set, listed without repeats. -/
  timerBytes : List Nat
  deriving DecidableEq, Repr, Inhabited

/-- The dual-frame field positions (00_scope.md R17); byte numbers count from 1 in the data frame. -/
structure DfLayout where
  modeByte : Nat
  modeNibble : Fin 2
  miscByte : Nat
  miscBit : Fin 8
  tempByte : Nat
  tmodByte : Nat
  halfBit : Fin 8
  limitBit : Fin 8
  fsByte : Nat
  swingNibble : Fin 2
  /-- `DF_TIMER_BYTES`, a set, listed without repeats. -/
  timerBytes : List Nat
  profileByte : Nat
  deriving DecidableEq, Repr, Inhabited

/-- The constants of one block. Durations are microseconds. A pattern's bit `i` is the `i`-th
character of the spec's string (20_memory.md R77); a table is indexed as 00_scope.md R26 says. -/
structure Config where
  variant : Variant
  refMark : Nat
  refHdrMark : Nat
  refShort : Nat
  refLong : Nat
  refHdrSpace : Nat
  refSep : Nat
  delta : Nat
  oqDepth : Nat
  sfTemplate : FrameB
  dfTemplateA : FrameA
  dfTemplateB : FrameB
  sf : SfLayout
  df : DfLayout
  sfModePat : Vector (BitVec 8) 5
  sfPwrPat : Vector (BitVec 4) 5
  sfAngPat : Vector (BitVec 4) 6
  dfModePat : Vector (BitVec 4) 5
  dfFanPat : Vector (BitVec 4) 6
  dfSwingPat : Vector (BitVec 4) 6
  dfMiscVal : Vector MiscVal 5
  deriving DecidableEq, Repr, Inhabited

/-- The reference table's constraint (00_scope.md R12). -/
abbrev Config.RefsOk (c : Config) : Prop :=
  c.refMark ≠ c.refHdrMark ∧ [c.refShort, c.refLong, c.refHdrSpace, c.refSep].Nodup ∧
    ∀ r ∈ [c.refMark, c.refHdrMark, c.refShort, c.refLong, c.refHdrSpace, c.refSep], r < 2 ^ 24

/-- The eleven named bytes of the single-frame layout, the ID bytes 0..4 first (00_scope.md R16, R21). -/
abbrev SfLayout.named (l : SfLayout) : List Nat :=
  [0, 1, 2, 3, 4, l.modeByte, l.tempByte, l.tmodByte, l.fanByte, l.ckByte0, l.ckByte1]

/-- The single-frame layout's constraint (00_scope.md R16). -/
abbrev SfLayout.Ok (l : SfLayout) : Prop :=
  l.named.Nodup ∧ (∀ k ∈ l.named, k ≤ 18) ∧ l.halfBit ≠ l.limitBit ∧ l.timerBytes.Nodup ∧
    ∀ k ∈ l.timerBytes, k ≤ 18 ∧ k ∉ l.named

/-- The dual-frame bytes that share with no other field (00_scope.md R17). -/
abbrev DfLayout.unshared (l : DfLayout) : List Nat :=
  l.tempByte :: l.tmodByte :: l.fsByte :: l.profileByte :: l.timerBytes

/-- The dual-frame layout's constraint (00_scope.md R17). -/
abbrev DfLayout.Ok (l : DfLayout) : Prop :=
  (∀ k ∈ l.modeByte :: l.miscByte :: l.unshared, 1 ≤ k ∧ k ≤ 18) ∧
    ¬(l.miscByte = l.modeByte ∧ l.miscBit.val / 4 = l.modeNibble.val) ∧ l.unshared.Nodup ∧
    l.modeByte ∉ l.unshared ∧ l.miscByte ∉ l.unshared ∧ l.halfBit ≠ l.limitBit

/-- The pattern tables' constraint (00_scope.md R18), with the two patterns that the source gives
(43_fields.md R191): Heat is `"10000010"` and 50% is `"0010"`. -/
abbrev Config.PatternsOk (c : Config) : Prop :=
  c.sfModePat.toList.Nodup ∧ c.sfPwrPat.toList.Nodup ∧ c.sfAngPat.toList.Nodup ∧
    c.dfModePat.toList.Nodup ∧ c.dfFanPat.toList.Nodup ∧ c.dfSwingPat.toList.Nodup ∧
    c.sfModePat[3] = 0x41#8 ∧ c.sfPwrPat[2] = 0x4#4 ∧
    c.dfMiscVal[2] = c.dfMiscVal[1] ∧
    (c.dfMiscVal[2] = .put false ∧ c.dfMiscVal[3] = .put true ∨
      c.dfMiscVal[2] = .put true ∧ c.dfMiscVal[3] = .put false)

/-- A well-formed choice of the OPEN parameters: 00_scope.md R12, R14, R16, R17, R18. -/
abbrev Config.Ok (c : Config) : Prop :=
  c.RefsOk ∧ (1 ≤ c.oqDepth ∧ c.oqDepth ≤ 15) ∧ c.sf.Ok ∧ c.df.Ok ∧ c.PatternsOk

/-- The bits of a spec string in frame order, the first character least significant (20_memory.md R77). -/
def frameBitString (n : Nat) (chars : List Nat) : BitVec n :=
  BitVec.ofNat n (chars.foldr (fun b v => b + 2 * v) 0)

/-- A frame from its bytes, the first byte at the lowest bits (20_memory.md R73, R74). -/
def frameOfBytes (n : Nat) (bytes : List Nat) : BitVec n :=
  BitVec.ofNat n (bytes.foldr (fun b v => b + 256 * v) 0)

/-- The test configuration TC of 95_test_vectors.md §1, single-frame. No rule depends on it
(00_scope.md R19): it shows that the constraint can be met, and the tests use it. -/
def Config.testSF : Config where
  variant := .sf
  refMark := 465
  refHdrMark := 3500
  refShort := 417
  refLong := 1275
  refHdrSpace := 1715
  refSep := 9935
  delta := 200
  oqDepth := 4
  sfTemplate := frameOfBytes 152 [0xA1, 0xB2, 0xC3, 0xD4, 0xE5]
  dfTemplateA := frameOfBytes 64 [0x02, 0x20, 0xE0, 0x04, 0, 0, 0, 0x06]
  dfTemplateB := frameOfBytes 152 [0x02, 0x20, 0xE0, 0x04]
  sf :=
    { modeByte := 5, tempByte := 6, tmodByte := 7, fanByte := 8, ckByte0 := 17, ckByte1 := 18,
      halfBit := 0, limitBit := 1, timerBytes := [9, 10, 11, 12] }
  df :=
    { modeByte := 6, modeNibble := 1, miscByte := 6, miscBit := 0, tempByte := 7, tmodByte := 8,
      halfBit := 0, limitBit := 1, fsByte := 9, swingNibble := 0, timerBytes := [11, 12, 13],
      profileByte := 14 }
  sfModePat :=
    #v[frameBitString 8 [0, 0, 0, 0, 0, 0, 0, 0], frameBitString 8 [0, 1, 0, 0, 0, 0, 0, 0],
      frameBitString 8 [1, 1, 0, 0, 0, 0, 0, 0], frameBitString 8 [1, 0, 0, 0, 0, 0, 1, 0],
      frameBitString 8 [0, 0, 1, 0, 0, 0, 0, 0]]
  sfPwrPat :=
    #v[frameBitString 4 [0, 0, 0, 0], frameBitString 4 [1, 0, 0, 0], frameBitString 4 [0, 0, 1, 0],
      frameBitString 4 [1, 0, 1, 0], frameBitString 4 [0, 1, 1, 0]]
  sfAngPat :=
    #v[frameBitString 4 [0, 0, 0, 0], frameBitString 4 [1, 0, 0, 0], frameBitString 4 [0, 1, 0, 0],
      frameBitString 4 [1, 1, 0, 0], frameBitString 4 [0, 0, 1, 0], frameBitString 4 [1, 0, 1, 0]]
  dfModePat :=
    #v[frameBitString 4 [0, 0, 0, 0], frameBitString 4 [0, 1, 0, 0], frameBitString 4 [1, 1, 0, 0],
      frameBitString 4 [0, 0, 1, 0], frameBitString 4 [0, 1, 1, 0]]
  dfFanPat :=
    #v[frameBitString 4 [0, 1, 0, 1], frameBitString 4 [1, 1, 0, 0], frameBitString 4 [0, 0, 1, 0],
      frameBitString 4 [1, 0, 1, 0], frameBitString 4 [0, 1, 1, 0], frameBitString 4 [1, 1, 1, 0]]
  dfSwingPat :=
    #v[frameBitString 4 [1, 1, 1, 1], frameBitString 4 [1, 0, 0, 0], frameBitString 4 [0, 1, 0, 0],
      frameBitString 4 [1, 1, 0, 0], frameBitString 4 [0, 0, 1, 0], frameBitString 4 [1, 0, 1, 0]]
  dfMiscVal := #v[.keep, .put true, .put true, .put false, .keep]

/-- The test configuration TC of 95_test_vectors.md §1, dual-frame. -/
def Config.testDF : Config := { Config.testSF with variant := .df }

/-- The parameters of the block, left open by the spec (00_scope.md R3, R11 to R18): nothing is
known of them. DESIGN CHOICE, log 1; safe. -/
opaque Config.openParameters : Config

/-- A choice of parameters, brought within the spec's constraints: itself where it is well formed. -/
def Config.orTest (c : Config) : Config := if c.Ok then c else Config.testSF

/-- The constants of the block that `State.reset` describes: an unknown well-formed choice
(DESIGN CHOICE, log 1; safe). -/
def Config.block : Config := Config.openParameters.orTest

end Sys2Proof
end

