-- ==== Sys2Proof/Machine/State.lean ====
section
/-! DEFINITION. The state of the block (10_state.md R43 to R57), the state after reset (R62), and the
reasons for which the model could stop. -/

namespace Sys2Proof.Machine

/-- `SYNC`, the synchronizer's state (10_state.md R43). -/
inductive SyncState where
  | awaitHeader
  | inFrame
  | awaitNext
  deriving DecidableEq, Repr

/-- A frame slot: `A` for frame 1 of the dual-frame variant, `B` for the 152-bit frame (10_state.md R44). -/
inductive Slot where
  | a
  | b
  deriving DecidableEq, Repr

/-- The class of a pulse (40_classifier.md R110). -/
inductive MarkClass where
  | mark
  | headerMark
  deriving DecidableEq, Repr

/-- The class of a space (40_classifier.md R110). -/
inductive SpaceClass where
  | short
  | long
  | separator
  | headerSpace
  deriving DecidableEq, Repr

/-- The value of `FCODE` (60_exceptions.md R250); the codes 14 and 15 are never recorded. -/
inductive FaultCode where
  | noFault
  | ambiguous
  | malformed
  | pairMismatch
  | bitOutsideFrame
  | frameOverflow
  | frameLength
  | queueOverflow
  | range
  | illegalCommand
  | illegalOperand
  | checksumMismatch
  | wrongVariant
  | uninit
  deriving DecidableEq, Repr

/-- An output-queue entry (10_state.md R49). The presence bits PA and PB say whether FA and FB are there;
an absent frame holds no value (log 10). -/
structure Entry where
  fa : Option FrameA
  fb : Option FrameB
  deriving DecidableEq, Repr

/-- The kind of a transmitted pair (10_state.md R57). -/
inductive TxKind where
  | mark
  | space
  deriving DecidableEq, Repr

/-- A pair of the transmit trace, its duration in microseconds (10_state.md R57). -/
structure TxPair where
  kind : TxKind
  dur : Nat
  deriving DecidableEq, Repr

/-- The state of one block. `cfg`, `port` and `resetIn` are the model's own fields (logs 1, 4, 5); every
other field is the spec's, by its name there. -/
structure State where
  /-- The constants of the block; no command writes them (10_state.md R41). -/
  cfg : Config
  /-- The words on the command port that the block has not taken, the next one first (30_encoding.md R93). -/
  port : List Word
  /-- The reset input is asserted (70_reset_and_hazards.md R280). -/
  resetIn : Bool
  /-- R43. -/
  sync : SyncState
  /-- R44. -/
  act : Slot
  /-- R45: a PULSE has been taken and its SPACE has not. -/
  pend : Bool
  /-- R45: the class of the pending pulse. -/
  pmark : MarkClass
  /-- R46. -/
  abufA : FrameA
  /-- R46. -/
  abufB : FrameB
  /-- R46. -/
  cntA : Nat
  /-- R46. -/
  cntB : Nat
  /-- R47: a complete frame 1 waits for its frame 2. -/
  doneA : Bool
  /-- R50: the output queue, the oldest entry first. Its length is QLEN. -/
  oq : List Entry
  /-- R51. -/
  wA : FrameA
  /-- R51. -/
  wB : FrameB
  /-- R52: `wA` holds a frame. -/
  wvA : Bool
  /-- R52: `wB` holds a frame. -/
  wvB : Bool
  /-- R53. -/
  evcnt : Word
  /-- R54. -/
  fcode : FaultCode
  /-- R55. -/
  fpos : Word
  /-- R56. -/
  res : Word
  /-- R57: the transmit trace, the oldest pair first. -/
  tx : List TxPair
  deriving DecidableEq, Repr

/-- The reasons for which the machine could stop with a fault. There are none, and nobody raises one:
the spec records every fault in FCODE and the next command executes normally (60_exceptions.md R262), so a
fault of the spec is a next state of the model. -/
inductive Fault where
  deriving DecidableEq, Repr

/-- The reasons for which the model refuses an instruction. -/
inductive Refusal where
  /-- Raised by `exec` for an instruction without a meaning; no instruction is left without one. Safe:
  nothing is claimed of a refused instruction. -/
  | notModelled (mnemonic : String)
  deriving DecidableEq, Repr

/-- The slot the synchronizer collects first: ACT after reset, CAPSTART and TIMEOUT (10_state.md R62). -/
def firstSlot : Variant → Slot
  | .sf => .b
  | .df => .a

/-- The block with the constants `c` right after power-on (10_state.md R62). R62 leaves the buffers and the
work frames unspecified: the zeros are the model's (DESIGN CHOICE, logs 2 and 3; no step shows them). -/
def State.resetOf (c : Config) : State where
  cfg := c
  port := []
  resetIn := false
  sync := .awaitHeader
  act := firstSlot c.variant
  pend := false
  pmark := .mark
  abufA := 0
  abufB := 0
  cntA := 0
  cntB := 0
  doneA := false
  oq := []
  wA := 0
  wB := 0
  wvA := false
  wvB := false
  evcnt := 0
  fcode := .noFault
  fpos := 0
  res := 0
  tx := []

/-- The machine right after power-on, for the block whose parameters the spec leaves open (log 1). -/
def State.reset : State := State.resetOf Config.block

end Sys2Proof.Machine
end

