-- ==== Sys2Proof/Machine/Flags.lean ====
section
/-! DEFINITION. The register read port: STATUS, CONFIG and the level output FAULT_O (10_state.md R58 to R61),
with the numbers of the values they show. -/

namespace Sys2Proof.Machine

/-- The number of a synchronizer state (10_state.md R43). -/
def SyncState.code : SyncState → Nat
  | .awaitHeader => 0
  | .inFrame => 1
  | .awaitNext => 2

/-- The number of a slot (10_state.md R44). -/
def Slot.code : Slot → Nat
  | .a => 0
  | .b => 1

/-- The number of a mark class (40_classifier.md R110). -/
def MarkClass.code : MarkClass → Nat
  | .mark => 0
  | .headerMark => 1

/-- The number of a space class (40_classifier.md R110). -/
def SpaceClass.code : SpaceClass → Nat
  | .short => 0
  | .long => 1
  | .separator => 2
  | .headerSpace => 3

/-- The number of a fault code (60_exceptions.md R250). -/
def FaultCode.code : FaultCode → Nat
  | .noFault => 0
  | .ambiguous => 1
  | .malformed => 2
  | .pairMismatch => 3
  | .bitOutsideFrame => 4
  | .frameOverflow => 5
  | .frameLength => 6
  | .queueOverflow => 7
  | .range => 8
  | .illegalCommand => 9
  | .illegalOperand => 10
  | .checksumMismatch => 11
  | .wrongVariant => 12
  | .uninit => 13

/-- A number placed at bit `lo` of a register. -/
def fieldAt (lo v : Nat) : Word := BitVec.ofNat 32 v <<< lo

/-- The count of the active slot, `CNT_ACT` (10_state.md R46). -/
def State.activeCount (s : State) : Nat :=
  match s.act with
  | .a => s.cntA
  | .b => s.cntB

/-- `STATUS.PMARK`: 0 when no pulse is pending (10_state.md R59). -/
def State.shownPmark (s : State) : Nat := if s.pend then s.pmark.code else 0

/-- `STATUS.FLT` and the level output `FAULT_O` (10_state.md R59, R61). -/
def State.faultOut (s : State) : Bool := decide (s.fcode ≠ .noFault)

/-- `STATUS` (10_state.md R59). -/
def State.status (s : State) : Word :=
  fieldAt 0 s.sync.code ||| fieldAt 2 s.act.code ||| fieldAt 3 s.pend.toNat ||| fieldAt 4 s.shownPmark |||
    fieldAt 5 s.doneA.toNat ||| fieldAt 6 s.wvA.toNat ||| fieldAt 7 s.wvB.toNat |||
    fieldAt 8 (s.activeCount % 256) ||| fieldAt 16 (s.oq.length % 16) ||| fieldAt 24 s.fcode.code |||
    fieldAt 31 s.faultOut.toNat

/-- `CONFIG` (10_state.md R60). -/
def configRegister (c : Config) : Word :=
  match c.variant with
  | .sf => fieldAt 4 (c.oqDepth % 16) ||| fieldAt 8 152
  | .df => fieldAt 0 1 ||| fieldAt 4 (c.oqDepth % 16) ||| fieldAt 8 152 ||| fieldAt 16 64

/-- The register read port (10_state.md R58): no side effect; the reserved addresses read 0. -/
def State.readPort (s : State) (addr : BitVec 3) : Word :=
  if addr = 0 then s.status
  else if addr = 1 then s.res
  else if addr = 2 then s.fpos
  else if addr = 3 then s.evcnt
  else if addr = 4 then configRegister s.cfg
  else 0

end Sys2Proof.Machine
end

