-- ==== Sys2Proof/Machine/Operands.lean ====
section
/-! DEFINITION. The operand forms: frame selectors, byte numbers, slices of a frame, enumeration operands and
temperatures (20_memory.md R73 to R76; 42_bitframe.md R170, R176; 43_fields.md R192 to R196). -/

namespace Sys2Proof.Machine

/-- The slice `W[start +: n]` (00_scope.md R22); as a number it is `leval` of the slice (R24). -/
def sliceOf {l : Nat} (w : BitVec l) (start n : Nat) : BitVec n := w.extractLsb' start n

/-- The frame with its slice `W[start +: n]` replaced (00_scope.md R25, FrameWrite). -/
def withSlice {l n : Nat} (w : BitVec l) (start : Nat) (v : BitVec n) : BitVec l :=
  (w &&& ~~~((BitVec.allOnes n).setWidth l <<< start)) ||| (v.setWidth l <<< start)

/-- The fixed length of the frame in a slot, `L_A` = 64 or `L_B` = 152 (00_scope.md R10). -/
def frameLen : Slot → Nat
  | .a => 64
  | .b => 152

/-- The frame a selector names (42_bitframe.md R170). -/
def selectedSlot (v : Variant) (f : BitVec 2) : Option Slot :=
  match v with
  | .sf => if f = 0 then some .b else none
  | .df => if f = 1 then some .a else if f = 2 then some .b else none

/-- Which byte numbers a frame has (20_memory.md R73). -/
def isByteNumber (v : Variant) (x : Slot) (k : Nat) : Bool :=
  match v, x with
  | .sf, .a => false
  | .sf, .b => decide (k ≤ 18)
  | .df, .a => decide (1 ≤ k ∧ k ≤ 8)
  | .df, .b => decide (1 ≤ k ∧ k ≤ 19)

/-- `Byte(f, k)`, the first bit of byte `k`: bytes count from 0 in the single-frame and from 1 in the
dual-frame variant (20_memory.md R73). -/
def byteStart (v : Variant) (k : Nat) : Nat :=
  match v with
  | .sf => 8 * k
  | .df => 8 * (k - 1)

/-- The first bit of nibble `j` of byte `k` (20_memory.md R76). -/
def nibbleStart (v : Variant) (k j : Nat) : Nat := byteStart v k + 4 * j

/-- `ResolveEnum` (43_fields.md R192): the pattern a setter writes. -/
def resolveEnum {w n : Nat} (arg : EnumArg) (pat : Vector (BitVec w) n) : Except FaultCode (BitVec w) :=
  match arg with
  | .named index => if h : index < n then .ok pat[index] else .error .illegalOperand
  | .raw code => if code.toNat < 2 ^ w then .ok (code.setWidth w) else .error .illegalOperand

/-- The index of a pattern in its table, 0xFF where the table does not have it (43_fields.md R194). -/
def enumIndex {w n : Nat} (pat : Vector (BitVec w) n) (bits : BitVec w) : Nat :=
  (pat.toList.findIdx? (· == bits)).getD 0xFF

/-- `DecodeEnum` (43_fields.md R194): the index over the raw code. -/
def decodeEnum {w n : Nat} (pat : Vector (BitVec w) n) (bits : BitVec w) : Word :=
  (BitVec.ofNat 32 (enumIndex pat bits) <<< 8) ||| bits.setWidth 32

/-- The `DF_MISC_VAL` entry of a mode operand: a raw code never touches the misc bit (43_fields.md R199, R200). -/
def miscOf (c : Config) (arg : EnumArg) : MiscVal :=
  match arg with
  | .named index => c.dfMiscVal[index]?.getD .keep
  | .raw _ => .keep

/-- A clamped temperature: `t2c` half-degrees, and whether the limit bit is set (43_fields.md R195). -/
structure Clamped where
  t2c : Nat
  limit : Bool
  deriving DecidableEq, Repr

/-- `Clamp` (43_fields.md R195; 90_conflicts.md C6). -/
def clamp (t2 : Nat) : Clamped :=
  if t2 ≤ 32 then ⟨32, true⟩ else if 60 ≤ t2 then ⟨60, true⟩ else ⟨t2, false⟩

/-- `half` of R195. -/
def halfOf (c : Clamped) : Bool := decide (c.t2c % 2 = 1)

/-- `V`, the number the temperature byte holds for `ti` whole degrees (43_fields.md R196). -/
def tempByteOf (v : Variant) (ti : Nat) : BitVec 8 :=
  match v with
  | .sf => BitVec.ofNat 8 (2 * ti)
  | .df => BitVec.ofNat 8 ti

/-- The whole degrees a temperature byte holds (43_fields.md R198). -/
def degreesOf (v : Variant) (b : BitVec 8) : Nat :=
  match v with
  | .sf => b.toNat / 2
  | .df => b.toNat

/-- The result of SETTEMP and GETTEMP: limit, half and the half-degrees (43_fields.md R197, R198). -/
def tempResult (limit half : Bool) (t2 : Nat) : Word :=
  ((BitVec.ofBool limit).setWidth 32 <<< 17) ||| ((BitVec.ofBool half).setWidth 32 <<< 16) |||
    BitVec.ofNat 32 t2

/-- The byte, half bit and limit bit of the temperature fields of a layout. -/
structure TempFields where
  tempByte : Nat
  tmodByte : Nat
  halfBit : Nat
  limitBit : Nat
  deriving DecidableEq, Repr

/-- The temperature fields of the block's own layout (43_fields.md R197: "SF uses the SF_ parameters, DF the
DF_ parameters"). -/
def tempFields (c : Config) : TempFields :=
  match c.variant with
  | .sf => ⟨c.sf.tempByte, c.sf.tmodByte, c.sf.halfBit, c.sf.limitBit⟩
  | .df => ⟨c.df.tempByte, c.df.tmodByte, c.df.halfBit, c.df.limitBit⟩

/-- The nibble of `DF_FS_BYTE` that holds the fan pattern (43_fields.md R203). -/
def fanNibble (c : Config) : Nat := 1 - c.df.swingNibble.val

end Sys2Proof.Machine
end

