-- ==== Sys2Proof/Machine/Ops.lean ====
section
/-! DEFINITION. The named operations on the state: recording a fault and clearing it, completing a command or an
event, the work frames, the assembler, the output queue, the reset input and the command port. -/

namespace Sys2Proof.Machine

/-! ### Faults (60_exceptions.md R262 to R265) -/

/-- Fault entry (60_exceptions.md R262): the first fault is recorded, with the event's ordinal if an event
raised it; nothing else changes. -/
def State.raise (s : State) (c : FaultCode) (byEvent : Bool) : State :=
  if s.fcode = .noFault then { s with fcode := c, fpos := if byEvent then s.evcnt else 0 } else s

/-- The way back from a recorded fault (60_exceptions.md R264): CAPSTART and reset clear it. -/
def State.clearFault (s : State) : State := { s with fcode := .noFault, fpos := 0 }

/-- A check of a command: the fault `c` where it fails (00_scope.md R25). -/
def check (ok : Bool) (c : FaultCode) : Except FaultCode Unit := if ok then .ok () else .error c

/-- A value that a check finds, or the fault `c` where there is none. -/
def orFault {α : Type} (v : Option α) (c : FaultCode) : Except FaultCode α :=
  match v with
  | none => .error c
  | some v => .ok v

/-- The state after a command that answered `r` at `s`: all of its writes, or the fault alone
(60_exceptions.md R262, R263). -/
def State.settle (s : State) (byEvent : Bool) (r : Except FaultCode State) : State :=
  match r with
  | .ok t => t
  | .error c => s.raise c byEvent

/-- A write of RES (10_state.md R56). -/
def State.setRes (s : State) (v : Word) : State := { s with res := v }

/-- A command that is not an event. -/
def State.complete (s : State) (r : Except FaultCode State) : Host.Outcome State Fault Refusal :=
  .next (s.settle false r)

/-- A command that writes nothing but RES (20_memory.md R81). -/
def State.answer (s : State) (r : Except FaultCode Word) : Host.Outcome State Fault Refusal :=
  s.complete (r.map s.setRes)

/-- An event is counted before its effect (10_state.md R53). -/
def State.countEvent (s : State) : State := { s with evcnt := s.evcnt + 1 }

/-- An event: discarded while a fault is recorded (41_synchronizer.md R136), else counted and applied; a
faulting event keeps its count (60_exceptions.md R262). -/
def State.event (s : State) (effect : State → Except FaultCode State) : Host.Outcome State Fault Refusal :=
  .next (if s.fcode = .noFault then s.countEvent.settle true (effect s.countEvent) else s)

/-! ### Work frames (10_state.md R51, R52; 42_bitframe.md R170) -/

/-- The valid bit of a work frame (10_state.md R52). -/
def State.valid (s : State) (x : Slot) : Bool :=
  match x with
  | .a => s.wvA
  | .b => s.wvB

/-- The slice `W_x[start +: n]` of a work frame (00_scope.md R25, FrameRead). -/
def State.readBits (s : State) (x : Slot) (start n : Nat) : BitVec n :=
  match x with
  | .a => sliceOf s.wA start n
  | .b => sliceOf s.wB start n

/-- Replaces a slice of a work frame (00_scope.md R25, FrameWrite). -/
def State.writeBits {n : Nat} (s : State) (x : Slot) (start : Nat) (v : BitVec n) : State :=
  match x with
  | .a => { s with wA := withSlice s.wA start v }
  | .b => { s with wB := withSlice s.wB start v }

/-- `Sel(F)`: the frame, ILLEGAL_OPERAND where the variant has no such frame, UNINIT where it holds none
(42_bitframe.md R170). -/
def State.select (s : State) (f : BitVec 2) : Except FaultCode Slot :=
  match selectedSlot s.cfg.variant f with
  | none => .error .illegalOperand
  | some x => if s.valid x then .ok x else .error .uninit

/-- The variant check of a command (60_exceptions.md R252). -/
def State.needVariant (s : State) (v : Variant) : Except FaultCode Unit :=
  check (decide (s.cfg.variant = v)) .wrongVariant

/-- The valid check of a field, checksum or encoder command (43_fields.md R190). -/
def State.needFrame (s : State) (x : Slot) : Except FaultCode Unit := check (s.valid x) .uninit

/-- Byte `k` of W_B, as its number (20_memory.md R74). -/
def State.byteB (s : State) (k : Nat) : BitVec 8 := s.readBits .b (byteStart s.cfg.variant k) 8

/-- Writes byte `k` of W_B. -/
def State.setByteB (s : State) (k : Nat) (v : BitVec 8) : State :=
  s.writeBits .b (byteStart s.cfg.variant k) v

/-- `Nib(k, j)` of W_B (43_fields.md). -/
def State.nibbleB (s : State) (k j : Nat) : BitVec 4 := s.readBits .b (nibbleStart s.cfg.variant k j) 4

/-- Writes `Nib(k, j)` of W_B; the other nibble keeps its value (43_fields.md R202). -/
def State.setNibbleB (s : State) (k j : Nat) (v : BitVec 4) : State :=
  s.writeBits .b (nibbleStart s.cfg.variant k j) v

/-- `Bit(k, i)` of W_B (43_fields.md). -/
def State.bitB (s : State) (k i : Nat) : Bool :=
  s.readBits .b (byteStart s.cfg.variant k + i) 1 == 1#1

/-- Writes `Bit(k, i)` of W_B. -/
def State.setBitB (s : State) (k i : Nat) (v : Bool) : State :=
  s.writeBits .b (byteStart s.cfg.variant k + i) (BitVec.ofBool v)

/-! ### The assembler and the output queue (41_synchronizer.md R138 to R145) -/

/-- Appends a data bit to the active buffer (41_synchronizer.md R138). -/
def State.appendBit (s : State) (bit : Bool) : State :=
  match s.act with
  | .a => { s with abufA := withSlice s.abufA s.cntA (BitVec.ofBool bit), cntA := s.cntA + 1 }
  | .b => { s with abufB := withSlice s.abufB s.cntB (BitVec.ofBool bit), cntB := s.cntB + 1 }

/-- What `CloseActive` finds in the active slot (41_synchronizer.md R141). -/
inductive Closed where
  | empty
  | full
  deriving DecidableEq, Repr

/-- `CloseActive` (41_synchronizer.md R141). -/
def State.closeActive (s : State) : Except FaultCode Closed :=
  if s.activeCount = 0 then .ok .empty
  else if s.activeCount = frameLen s.act then .ok .full
  else .error .frameLength

/-- `CheckRoom` and `Push` (41_synchronizer.md R144, 10_state.md R50). -/
def State.push (s : State) (e : Entry) : Except FaultCode State :=
  if s.oq.length = s.cfg.oqDepth then .error .queueOverflow else .ok { s with oq := s.oq ++ [e] }

/-- Pushes an entry, if there is one. -/
def State.pushIf (s : State) (e : Option Entry) : Except FaultCode State :=
  match e with
  | none => .ok s
  | some e => s.push e

/-- The synchronizer as reset, CAPSTART and TIMEOUT leave it (10_state.md R62; 41_synchronizer.md R132, R135). -/
def State.restartSync (s : State) : State :=
  { s with
    sync := .awaitHeader, act := firstSlot s.cfg.variant, pend := false, pmark := .mark,
    cntA := 0, cntB := 0, doneA := false }

/-! ### The command port and the reset input -/

/-- What stands at the head of the command port. -/
def State.fetch (s : State) : Decoded := decode s.port

/-- The state with the words `rest` left on the port. -/
def State.withPort (s : State) (rest : List Word) : State := { s with port := rest }

/-- An illegal command word is taken from the port and faults; it is no event, even with an event's opcode
(60_exceptions.md R262). -/
def State.takeIllegal (s : State) (rest : List Word) : State :=
  (s.withPort rest).raise .illegalCommand false

/-- The words left on the port by the reset input: a SETR word whose data word has not come is abandoned, behind
whatever words it waits (70_reset_and_hazards.md R280); the whole commands and illegal words before it are still the
host's (DEDUCED, log 5). As in `decode`, a SETR word takes the next word with it whatever either is (log 7). -/
def abandonPartial : List Word → List Word
  | [] => []
  | [w] => if opField w = Opcode.setr.bits then [] else [w]
  | w :: next :: rest =>
    if opField w = Opcode.setr.bits then w :: next :: abandonPartial rest else w :: abandonPartial (next :: rest)

/-- The reset input (70_reset_and_hazards.md R280): every field at the value of 10_state.md R62; the block's
constants and the transmit trace stay (R281, R282). -/
def State.takeReset (s : State) : State :=
  { State.resetOf s.cfg with port := abandonPartial s.port, tx := s.tx }

/-- Delivers the words of an instruction to the port, before those already there. -/
def State.deliver (s : State) (ws : List Word) : State := s.withPort (ws ++ s.port)

end Sys2Proof.Machine
end

