-- ==== Sys2Proof/Machine/BitFrame.lean ====
section
/-! DEFINITION. The bit-frame indexer: NEWF, GETR, SETR, GETB and SETB (42_bitframe.md). -/

namespace Sys2Proof.Machine

/-- The state after NEWF (42_bitframe.md R171). -/
def newFrames (s : State) : State :=
  match s.cfg.variant with
  | .sf => { s with wB := s.cfg.sfTemplate, wvB := true }
  | .df => { s with wA := s.cfg.dfTemplateA, wB := s.cfg.dfTemplateB, wvA := true, wvB := true }

/-- NEWF (42_bitframe.md R171). -/
def execNewf (s : State) : Host.Outcome State Fault Refusal := s.complete (.ok ((newFrames s).setRes 0))

/-- The checks of a range access, in the order of 42_bitframe.md R172: length, selector, valid bit, bounds. -/
def State.rangeSlot (s : State) (f : BitVec 2) (start len : Nat) : Except FaultCode Slot := do
  check (decide (len ≤ 32)) .illegalOperand
  let x ← s.select f
  check (decide (start + len ≤ frameLen x)) .range
  return x

/-- The checks of a byte access, in the order of 42_bitframe.md R174: selector, valid bit, byte number. -/
def State.byteSlot (s : State) (f : BitVec 2) (k : Nat) : Except FaultCode Slot := do
  let x ← s.select f
  check (isByteNumber s.cfg.variant x k) .range
  return x

/-- GETR (42_bitframe.md R172): frame bit `start` is result bit 0. -/
def execGetr (f : BitVec 2) (start len : Nat) (s : State) : Host.Outcome State Fault Refusal :=
  s.answer ((s.rangeSlot f start len).map fun x => (s.readBits x start len).setWidth 32)

/-- SETR (42_bitframe.md R173): data bit 0 is frame bit `start`; the data bits at and above `len` are ignored. -/
def execSetr (f : BitVec 2) (start len : Nat) (data : Word) (s : State) : Host.Outcome State Fault Refusal :=
  s.complete ((s.rangeSlot f start len).map fun x => (s.writeBits x start (data.setWidth len)).setRes 0)

/-- GETB (42_bitframe.md R174). -/
def execGetb (f : BitVec 2) (k : Nat) (s : State) : Host.Outcome State Fault Refusal :=
  s.answer ((s.byteSlot f k).map fun x => (s.readBits x (byteStart s.cfg.variant k) 8).setWidth 32)

/-- SETB (42_bitframe.md R175). -/
def execSetb (f : BitVec 2) (k : Nat) (v : BitVec 8) (s : State) : Host.Outcome State Fault Refusal :=
  s.complete ((s.byteSlot f k).map fun x => (s.writeBits x (byteStart s.cfg.variant k) v).setRes 0)

end Sys2Proof.Machine
end

