-- ==== Sys2Proof/Machine/Checksum.lean ====
section
/-! DEFINITION. The checksum unit: CKGEN, CKCHK and GETCK (44_checksum.md). -/

namespace Sys2Proof.Machine

/-- The dual-frame checksum byte's number (44_checksum.md R230). -/
def ckByte : Nat := 19

/-- `Sum()`: the bytes 1 to 18 of W_B, mod 256 (44_checksum.md R230). -/
def State.checksum (s : State) : BitVec 8 :=
  BitVec.ofNat 8 ((List.range' 1 18).map fun k => (s.byteB k).toNat).sum

/-- A checksum result: bit 8 says that it was computed (44_checksum.md R231, R232). -/
def checksumResult (cs : BitVec 8) : Word := fieldAt 8 1 ||| cs.setWidth 32

/-- CKGEN (44_checksum.md R231); the single-frame checksum bytes are passed through (R233). -/
def execCkgen (s : State) : Host.Outcome State Fault Refusal :=
  s.complete do
    s.needFrame .b
    match s.cfg.variant with
    | .sf => return s.setRes 0
    | .df => return (s.setByteB ckByte s.checksum).setRes (checksumResult s.checksum)

/-- CKCHK (44_checksum.md R232); the single-frame checksum bytes are not validated (R233). -/
def execCkchk (s : State) : Host.Outcome State Fault Refusal :=
  s.answer do
    s.needFrame .b
    match s.cfg.variant with
    | .sf => return 0
    | .df =>
      check (s.byteB ckByte == s.checksum) .checksumMismatch
      return checksumResult s.checksum

/-- GETCK (44_checksum.md R234). -/
def execGetck (s : State) : Host.Outcome State Fault Refusal :=
  s.answer do
    s.needFrame .b
    match s.cfg.variant with
    | .sf =>
      return ((s.byteB s.cfg.sf.ckByte1).setWidth 32 <<< 8) ||| (s.byteB s.cfg.sf.ckByte0).setWidth 32
    | .df => return (s.byteB ckByte).setWidth 32

end Sys2Proof.Machine
end

