-- ==== Sys2Proof/Machine/Encoder.lean ====
section
/-! DEFINITION. The pulse encoder: EMIT (45_encoder.md). -/

namespace Sys2Proof.Machine

/-- A mark and its space. -/
def markSpace (mark space : Nat) : List TxPair := [⟨.mark, mark⟩, ⟨.space, space⟩]

/-- The pairs of a data bit: a long space for 1, a short one for 0 (45_encoder.md R241). -/
def bitPairs (c : Config) (bit : Bool) : List TxPair := markSpace c.refMark (if bit then c.refLong else c.refShort)

/-- `EmitFrame`: header, the bits from bit 0 on, the terminal mark and the end-of-frame space (45_encoder.md R241). -/
def emitFrame {l : Nat} (c : Config) (x : BitVec l) : List TxPair :=
  markSpace c.refHdrMark c.refHdrSpace ++ (List.range l).flatMap (fun i => bitPairs c (x.getLsbD i)) ++
    markSpace c.refMark c.refSep

/-- The state with pairs appended to the transmit trace (10_state.md R57). -/
def State.emitPairs (s : State) (pairs : List TxPair) : State := { s with tx := s.tx ++ pairs }

/-- EMIT (45_encoder.md R240, R242). -/
def execEmit (s : State) : Host.Outcome State Fault Refusal :=
  s.complete do
    match s.cfg.variant with
    | .sf =>
      s.needFrame .b
      return (s.emitPairs (emitFrame s.cfg s.wB)).setRes 308
    | .df =>
      s.needFrame .a
      s.needFrame .b
      return (s.emitPairs (emitFrame s.cfg s.wA ++ emitFrame s.cfg s.wB)).setRes 440

end Sys2Proof.Machine
end

