-- ==== Sys2Proof/Machine/Fields.lean ====
section
/-! DEFINITION. The field packer: temperature, mode, fan power, fan angle, fan and swing (43_fields.md). Every
command acts on W_B only (R190). -/

namespace Sys2Proof.Machine

/-! ### Temperature -/

/-- The writes of SETTEMP (43_fields.md R197). -/
def State.storeTemp (s : State) (c : Clamped) : State :=
  let p := tempFields s.cfg
  ((s.setByteB p.tempByte (tempByteOf s.cfg.variant (c.t2c / 2))).setBitB p.tmodByte p.halfBit
    (halfOf c)).setBitB p.tmodByte p.limitBit c.limit

/-- SETTEMP (43_fields.md R197). -/
def execSettemp (t2 : Nat) (s : State) : Host.Outcome State Fault Refusal :=
  s.complete do
    s.needFrame .b
    let c := clamp t2
    return (s.storeTemp c).setRes (tempResult c.limit (halfOf c) c.t2c)

/-- The temperature that W_B holds (43_fields.md R198): the limit bit is reported, not applied. -/
def State.storedTemp (s : State) : Word :=
  let p := tempFields s.cfg
  let half := s.bitB p.tmodByte p.halfBit
  tempResult (s.bitB p.tmodByte p.limitBit) half
    (2 * degreesOf s.cfg.variant (s.byteB p.tempByte) + half.toNat)

/-- GETTEMP (43_fields.md R198). -/
def execGettemp (s : State) : Host.Outcome State Fault Refusal :=
  s.answer do
    s.needFrame .b
    return s.storedTemp

/-! ### Mode -/

/-- SETMODE in the single-frame variant (43_fields.md R199). -/
def setModeSF (arg : EnumArg) (s : State) : Except FaultCode State := do
  let p ← resolveEnum arg s.cfg.sfModePat
  s.needFrame .b
  return (s.setByteB s.cfg.sf.modeByte p).setRes (p.setWidth 32)

/-- The mode/misc coupling (43_fields.md R200). -/
def State.writeMisc (s : State) (m : MiscVal) : State :=
  match m with
  | .keep => s
  | .put bit => s.setBitB s.cfg.df.miscByte s.cfg.df.miscBit bit

/-- SETMODE in the dual-frame variant (43_fields.md R199, R200). -/
def setModeDF (arg : EnumArg) (s : State) : Except FaultCode State := do
  let p ← resolveEnum arg s.cfg.dfModePat
  s.needFrame .b
  return ((s.setNibbleB s.cfg.df.modeByte s.cfg.df.modeNibble p).writeMisc (miscOf s.cfg arg)).setRes
    (p.setWidth 32)

/-- SETMODE (43_fields.md R199). -/
def execSetmode (arg : EnumArg) (s : State) : Host.Outcome State Fault Refusal :=
  s.complete
    (match s.cfg.variant with
    | .sf => setModeSF arg s
    | .df => setModeDF arg s)

/-- The mode that W_B holds (43_fields.md R201). -/
def State.storedMode (s : State) : Word :=
  match s.cfg.variant with
  | .sf => decodeEnum s.cfg.sfModePat (s.byteB s.cfg.sf.modeByte)
  | .df => decodeEnum s.cfg.dfModePat (s.nibbleB s.cfg.df.modeByte s.cfg.df.modeNibble)

/-- GETMODE (43_fields.md R201). -/
def execGetmode (s : State) : Host.Outcome State Fault Refusal :=
  s.answer do
    s.needFrame .b
    return s.storedMode

/-! ### Nibble fields -/

/-- A nibble setter of the variant `v` (43_fields.md R202 to R209): variant, operand, valid bit, then the one
nibble is written. -/
def State.putNibble {n : Nat} (s : State) (v : Variant) (arg : EnumArg) (pat : Vector (BitVec 4) n) (k j : Nat) :
    Except FaultCode State := do
  s.needVariant v
  let p ← resolveEnum arg pat
  s.needFrame .b
  return (s.setNibbleB k j p).setRes (p.setWidth 32)

/-- A nibble getter of the variant `v` (43_fields.md R206 to R211). -/
def State.getNibble {n : Nat} (s : State) (v : Variant) (pat : Vector (BitVec 4) n) (k j : Nat) :
    Except FaultCode Word := do
  s.needVariant v
  s.needFrame .b
  return decodeEnum pat (s.nibbleB k j)

/-- SETFPWR (43_fields.md R204): the power nibble is nibble 1 (R193). -/
def execSetfpwr (arg : EnumArg) (s : State) : Host.Outcome State Fault Refusal :=
  s.complete (s.putNibble .sf arg s.cfg.sfPwrPat s.cfg.sf.fanByte 1)

/-- GETFPWR (43_fields.md R206). -/
def execGetfpwr (s : State) : Host.Outcome State Fault Refusal :=
  s.answer (s.getNibble .sf s.cfg.sfPwrPat s.cfg.sf.fanByte 1)

/-- SETFANG (43_fields.md R205): the angle nibble is nibble 0 (R193). -/
def execSetfang (arg : EnumArg) (s : State) : Host.Outcome State Fault Refusal :=
  s.complete (s.putNibble .sf arg s.cfg.sfAngPat s.cfg.sf.fanByte 0)

/-- GETFANG (43_fields.md R207). -/
def execGetfang (s : State) : Host.Outcome State Fault Refusal :=
  s.answer (s.getNibble .sf s.cfg.sfAngPat s.cfg.sf.fanByte 0)

/-- SETFAN (43_fields.md R208). -/
def execSetfan (arg : EnumArg) (s : State) : Host.Outcome State Fault Refusal :=
  s.complete (s.putNibble .df arg s.cfg.dfFanPat s.cfg.df.fsByte (fanNibble s.cfg))

/-- GETFAN (43_fields.md R210). -/
def execGetfan (s : State) : Host.Outcome State Fault Refusal :=
  s.answer (s.getNibble .df s.cfg.dfFanPat s.cfg.df.fsByte (fanNibble s.cfg))

/-- SETSWING (43_fields.md R209). -/
def execSetswing (arg : EnumArg) (s : State) : Host.Outcome State Fault Refusal :=
  s.complete (s.putNibble .df arg s.cfg.dfSwingPat s.cfg.df.fsByte s.cfg.df.swingNibble)

/-- GETSWING (43_fields.md R211). -/
def execGetswing (s : State) : Host.Outcome State Fault Refusal :=
  s.answer (s.getNibble .df s.cfg.dfSwingPat s.cfg.df.fsByte s.cfg.df.swingNibble)

end Sys2Proof.Machine
end

