-- ==== Sys2Proof/Machine/Classifier.lean ====
section
/-! DEFINITION. The timing-symbol classifier and its commands CLSM and CLSS (40_classifier.md). -/

namespace Sys2Proof.Machine

/-- `|a - b|`, without wrap (00_scope.md R23). -/
def absDiff (a b : Nat) : Nat := if a ≤ b then b - a else a - b

/-- Of two (class, reference) pairs, the one nearer to `d`, and at the same distance the one with the smaller
reference (40_classifier.md R111); equal references, which 00_scope.md R12 rules out, keep the first (log 17). -/
def nearer {κ : Type} (d : Nat) (best other : κ × Nat) : κ × Nat :=
  if absDiff d other.2 < absDiff d best.2 ∨ absDiff d other.2 = absDiff d best.2 ∧ other.2 < best.2 then other
  else best

/-- `Nearest(d, T)` for the table `first :: others` (40_classifier.md R111). -/
def nearest {κ : Type} (d : Nat) (first : κ × Nat) (others : List (κ × Nat)) : κ × Nat :=
  others.foldl (nearer d) first

/-- The tolerance (40_classifier.md R112): none is the ambiguous result, in the dual-frame variant only. -/
def withinTolerance {κ : Type} (c : Config) (d : Nat) (hit : κ × Nat) : Option κ :=
  match c.variant with
  | .sf => some hit.1
  | .df => if absDiff d hit.2 ≤ c.delta then some hit.1 else none

/-- `ClassMark` (40_classifier.md R113). -/
def classMark (c : Config) (d : Nat) : Option MarkClass :=
  withinTolerance c d (nearest d (.mark, c.refMark) [(.headerMark, c.refHdrMark)])

/-- `ClassSpace` (40_classifier.md R114). -/
def classSpace (c : Config) (d : Nat) : Option SpaceClass :=
  withinTolerance c d
    (nearest d (.short, c.refShort)
      [(.long, c.refLong), (.separator, c.refSep), (.headerSpace, c.refHdrSpace)])

/-- The symbol of a (pulse, space) pair (40_classifier.md R115). -/
inductive PairSymbol where
  | header
  | separator
  | bit (v : Bool)
  deriving DecidableEq, Repr

/-- `Symbol(mc, sc)`; none is PAIR_MISMATCH (40_classifier.md R115). -/
def pairSymbol (mc : MarkClass) (sc : SpaceClass) : Option PairSymbol :=
  match mc, sc with
  | .headerMark, .headerSpace => some .header
  | .mark, .short => some (.bit false)
  | .mark, .long => some (.bit true)
  | .mark, .separator => some .separator
  | .mark, .headerSpace => none
  | .headerMark, .short => none
  | .headerMark, .long => none
  | .headerMark, .separator => none

/-- The symbol codes in RES (40_classifier.md R116). -/
def PairSymbol.code : PairSymbol → Nat
  | .header => 0
  | .separator => 1
  | .bit false => 2
  | .bit true => 3

/-- A class code in RES; 7 is the ambiguous indicator (40_classifier.md R110). -/
def classCode (code : Option Nat) : Word := BitVec.ofNat 32 (code.getD 7)

/-- CLSM (40_classifier.md R117). -/
def execClsm (dur : Nat) (s : State) : Host.Outcome State Fault Refusal :=
  s.answer (.ok (classCode ((classMark s.cfg dur).map MarkClass.code)))

/-- CLSS (40_classifier.md R118). -/
def execClss (dur : Nat) (s : State) : Host.Outcome State Fault Refusal :=
  s.answer (.ok (classCode ((classSpace s.cfg dur).map SpaceClass.code)))

end Sys2Proof.Machine
end

