-- ==== Sys2Proof/Machine/Synchronizer.lean ====
section
/-! DEFINITION. The frame synchronizer: NOP, CAPSTART, PULSE, SPACE, TIMEOUT, POPCMD and CHKLEAD
(41_synchronizer.md). -/

namespace Sys2Proof.Machine

/-- NOP (41_synchronizer.md R131). -/
def execNop (s : State) : Host.Outcome State Fault Refusal := s.answer (.ok 0)

/-- CAPSTART (41_synchronizer.md R132): the work frames, their valid bits and TX are kept. -/
def execCapstart (s : State) : Host.Outcome State Fault Refusal :=
  s.complete (.ok ({ s.clearFault.restartSync with evcnt := 0, oq := [] }.setRes 0))

/-- The effect of a PULSE that is counted (41_synchronizer.md R133). -/
def pulseEffect (dur : Nat) (s : State) : Except FaultCode State := do
  check (!s.pend) .malformed
  let mc ← orFault (classMark s.cfg dur) .ambiguous
  return { s with pend := true, pmark := mc }.setRes (BitVec.ofNat 32 mc.code)

/-- PULSE (41_synchronizer.md R133). -/
def execPulse (dur : Nat) (s : State) : Host.Outcome State Fault Refusal := s.event (pulseEffect dur)

/-- `HeaderEffect` (41_synchronizer.md R137). -/
def headerEffect (s : State) : Except FaultCode State := .ok { s with sync := .inFrame }

/-- `BitEffect` (41_synchronizer.md R138). -/
def bitEffect (bit : Bool) (s : State) : Except FaultCode State := do
  check (decide (s.sync = .inFrame)) .bitOutsideFrame
  check (decide (s.activeCount ≠ frameLen s.act)) .frameOverflow
  return s.appendBit bit

/-- `SeparatorEffect` of the single-frame variant (41_synchronizer.md R139). -/
def separatorEffectSF (s : State) : Except FaultCode State := do
  match ← s.closeActive with
  | .empty => return { s with sync := .awaitNext }
  | .full =>
    let t ← s.push ⟨none, some s.abufB⟩
    return { t with cntB := 0, sync := .awaitNext }

/-- `SeparatorEffect` of the dual-frame variant (41_synchronizer.md R140). Both of the rule's conditions read
ACT as it was when the separator came (DEDUCED, log 8). -/
def separatorEffectDF (s : State) : Except FaultCode State := do
  match ← s.closeActive, s.act with
  | .empty, _ => return { s with sync := .awaitNext }
  | .full, .a => return { s with doneA := true, act := .b, cntB := 0, sync := .awaitNext }
  | .full, .b =>
    let t ← s.push ⟨some s.abufA, some s.abufB⟩
    return { t with cntA := 0, cntB := 0, doneA := false, act := .a, sync := .awaitNext }

/-- The effect of a symbol (41_synchronizer.md R134). -/
def symbolEffect (sym : PairSymbol) (s : State) : Except FaultCode State :=
  match sym with
  | .header => headerEffect s
  | .bit v => bitEffect v s
  | .separator =>
    match s.cfg.variant with
    | .sf => separatorEffectSF s
    | .df => separatorEffectDF s

/-- The effect of a SPACE that is counted (41_synchronizer.md R134). -/
def spaceEffect (dur : Nat) (s : State) : Except FaultCode State := do
  check s.pend .malformed
  let sc ← orFault (classSpace s.cfg dur) .ambiguous
  let sym ← orFault (pairSymbol s.pmark sc) .pairMismatch
  let t ← symbolEffect sym s
  return { t with pend := false }.setRes (BitVec.ofNat 32 sym.code)

/-- SPACE (41_synchronizer.md R134). -/
def execSpace (dur : Nat) (s : State) : Host.Outcome State Fault Refusal := s.event (spaceEffect dur)

/-- The entry a TIMEOUT flushes (41_synchronizer.md R142, R143). The column DONE_A of R143 follows from ACT by
10_state.md R48 and is not read (DEDUCED, log 9). -/
def flushEntry (s : State) (r : Closed) : Option Entry :=
  match s.cfg.variant, s.act, r with
  | .sf, _, .empty => none
  | .sf, _, .full => some ⟨none, some s.abufB⟩
  | .df, .a, .empty => none
  | .df, .a, .full => some ⟨some s.abufA, none⟩
  | .df, .b, .empty => some ⟨some s.abufA, none⟩
  | .df, .b, .full => some ⟨some s.abufA, some s.abufB⟩

/-- The effect of a TIMEOUT that is counted (41_synchronizer.md R135); RES is the number of entries pushed. -/
def timeoutEffect (s : State) : Except FaultCode State := do
  let r ← s.closeActive
  let t ← s.pushIf (flushEntry s r)
  return t.restartSync.setRes (if (flushEntry s r).isSome then 1 else 0)

/-- TIMEOUT (41_synchronizer.md R135). -/
def execTimeout (s : State) : Host.Outcome State Fault Refusal := s.event timeoutEffect

/-- The work frames after an entry is popped (41_synchronizer.md R145). A frame that the entry lacks keeps its
bits behind a cleared valid bit (93_implementation_defined.md U7, log 11). -/
def State.loadEntry (s : State) (e : Entry) : State :=
  match s.cfg.variant with
  | .sf => { s with wvB := e.fb.isSome, wB := e.fb.getD s.wB }
  | .df =>
    { s with wvA := e.fa.isSome, wA := e.fa.getD s.wA, wvB := e.fb.isSome, wB := e.fb.getD s.wB }

/-- The result of POPCMD for an entry (41_synchronizer.md R145). -/
def popResult (e : Entry) : Word := 1 ||| fieldAt 1 e.fa.isSome.toNat ||| fieldAt 2 e.fb.isSome.toNat

/-- The state after POPCMD (41_synchronizer.md R145); an empty queue is no fault. -/
def popEffect (s : State) : State :=
  match s.oq with
  | [] => s.setRes 0
  | e :: rest => ({ s with oq := rest }.loadEntry e).setRes (popResult e)

/-- POPCMD (41_synchronizer.md R145). -/
def execPopcmd (s : State) : Host.Outcome State Fault Refusal := s.complete (.ok (popEffect s))

/-- The lead-in or command-frame check (41_synchronizer.md R146). -/
def leadMatches (s : State) : Except FaultCode Bool := do
  match s.cfg.variant with
  | .sf =>
    s.needFrame .b
    return sliceOf s.wB 0 40 == sliceOf s.cfg.sfTemplate 0 40
  | .df =>
    s.needFrame .a
    return s.wA == s.cfg.dfTemplateA

/-- CHKLEAD (41_synchronizer.md R146). -/
def execChklead (s : State) : Host.Outcome State Fault Refusal :=
  s.answer ((leadMatches s).map fun hit => if hit then 1 else 0)

end Sys2Proof.Machine
end

