-- ==== Sys2Proof/Machine/Dispatch.lean ====
section
/-! DEFINITION. The meaning of every command, one arm per constructor. -/

namespace Sys2Proof.Machine

def exec (i : Instr) (s : State) : Host.Outcome State Fault Refusal :=
  match i with
  | .nop => Sys2Proof.Machine.execNop s
  | .capstart => Sys2Proof.Machine.execCapstart s
  | .pulse dur => Sys2Proof.Machine.execPulse dur s
  | .space dur => Sys2Proof.Machine.execSpace dur s
  | .timeout => Sys2Proof.Machine.execTimeout s
  | .popcmd => Sys2Proof.Machine.execPopcmd s
  | .chklead => Sys2Proof.Machine.execChklead s
  | .clsm dur => Sys2Proof.Machine.execClsm dur s
  | .clss dur => Sys2Proof.Machine.execClss dur s
  | .newf => Sys2Proof.Machine.execNewf s
  | .getr f start len => Sys2Proof.Machine.execGetr f start len s
  | .setr f start len data => Sys2Proof.Machine.execSetr f start len data s
  | .getb f k => Sys2Proof.Machine.execGetb f k s
  | .setb f k v => Sys2Proof.Machine.execSetb f k v s
  | .settemp t2 => Sys2Proof.Machine.execSettemp t2 s
  | .gettemp => Sys2Proof.Machine.execGettemp s
  | .setmode arg => Sys2Proof.Machine.execSetmode arg s
  | .getmode => Sys2Proof.Machine.execGetmode s
  | .setfpwr arg => Sys2Proof.Machine.execSetfpwr arg s
  | .getfpwr => Sys2Proof.Machine.execGetfpwr s
  | .setfang arg => Sys2Proof.Machine.execSetfang arg s
  | .getfang => Sys2Proof.Machine.execGetfang s
  | .setfan arg => Sys2Proof.Machine.execSetfan arg s
  | .getfan => Sys2Proof.Machine.execGetfan s
  | .setswing arg => Sys2Proof.Machine.execSetswing arg s
  | .getswing => Sys2Proof.Machine.execGetswing s
  | .ckgen => Sys2Proof.Machine.execCkgen s
  | .ckchk => Sys2Proof.Machine.execCkchk s
  | .getck => Sys2Proof.Machine.execGetck s
  | .emit => Sys2Proof.Machine.execEmit s

end Sys2Proof.Machine
end

