-- ==== Sys2Proof/Machine/Step.lean ====
section
/-! DEFINITION. One step of the block: the reset input, or one command from the command port. -/

namespace Sys2Proof.Machine

/-- One step (10_state.md R40). The reset input comes first (70_reset_and_hazards.md R280). With no complete
command on the port the block waits (30_encoding.md R93); an illegal word is taken and faults (R92, R96); a
command is taken and executed. -/
def step (s : State) : Host.Outcome State Fault Refusal :=
  if s.resetIn then .next s.takeReset
  else
    match s.fetch with
    | .waiting => .next s
    | .illegal _ rest => .next (s.takeIllegal rest)
    | .command i rest => exec i (s.withPort rest)

/-- `s` with an instruction's words delivered to the command port, before those already there: its bits are those
of `w` up to `nbits`, and zero above (log 6). -/
def State.withFetchWord (s : State) (nbits w : Nat) : State := s.deliver (wordsOfNumber (w % 2 ^ nbits))

end Sys2Proof.Machine
end

