-- ==== Sys2Proof/Safety.lean ====
section
/-! DEFINITION. What the statements speak of: the invariants of the state (10_state.md R43 to R55), the part of
the state that has a defined value, commands run in a row, and a transmit trace played back as a capture. -/

namespace Sys2Proof.Machine

/-- The synchronizer's invariants (10_state.md R44, R46 to R48; 41_synchronizer.md R149: outside IN_FRAME the active
count is 0). In the dual-frame variant the data frame's count is 0 while frame 1 is collected (R140). -/
abbrev State.SyncInv (s : State) : Prop :=
  (s.cfg.variant = .sf → s.act = .b ∧ s.doneA = false ∧ s.cntA = 0) ∧
    (s.cfg.variant = .df → (s.act = .b ↔ s.doneA = true)) ∧
    (s.doneA = true → s.cntA = 64) ∧ s.cntA ≤ 64 ∧ s.cntB ≤ 152 ∧
    (s.act = .a → s.cntB = 0) ∧
    (s.sync ≠ .inFrame → s.activeCount = 0)

/-- The output queue's invariants (10_state.md R49, R50). -/
abbrev State.QueueInv (s : State) : Prop :=
  s.oq.length ≤ s.cfg.oqDepth ∧
    (s.cfg.variant = .sf → ∀ e ∈ s.oq, e.fa = none ∧ e.fb ≠ none) ∧
    (s.cfg.variant = .df → ∀ e ∈ s.oq, e.fa ≠ none)

/-- A code that only an event records (60_exceptions.md R250, codes 1 to 7). -/
def FaultCode.isCapture (c : FaultCode) : Bool := decide (1 ≤ c.code ∧ c.code ≤ 7)

/-- The fault registers' invariants (10_state.md R53, R55): FPOS names the event of a capture fault, which stays the
last one counted; it is 0 otherwise. -/
abbrev State.FaultInv (s : State) : Prop :=
  (s.fcode.isCapture = true → s.fpos = s.evcnt) ∧ (s.fcode.isCapture = false → s.fpos = 0)

/-- The invariant that holds from reset on and that every step keeps: well-formed constants, the three invariants
above, and a valid bit of `W_A` that stays 0 in the single-frame variant (10_state.md R52). -/
abbrev State.Inv (s : State) : Prop :=
  s.cfg.Ok ∧ s.SyncInv ∧ s.QueueInv ∧ s.FaultInv ∧ (s.cfg.variant = .sf → s.wvA = false)

/-- The lowest `n` bits of a frame, the others zero. -/
def lowBits {l : Nat} (x : BitVec l) (n : Nat) : BitVec l := (x.setWidth n).setWidth l

/-- The state with every part that "holds no defined value" set to one value: buffer bits at and above the count
(10_state.md R46), work frames whose valid bit is 0 (R52, R62), the mark class when no pulse is pending (R45). -/
def State.defined (s : State) : State :=
  { s with
    abufA := lowBits s.abufA s.cntA
    abufB := lowBits s.abufB s.cntB
    wA := if s.wvA then s.wA else 0
    wB := if s.wvB then s.wB else 0
    pmark := if s.pend then s.pmark else .mark }

/-- Two states that differ only where no value is defined. -/
abbrev State.SameDefined (s t : State) : Prop := s.defined = t.defined

/-- Commands run one after another, up to the first that does not complete. -/
def execAll : List Instr → State → Host.Outcome State Fault Refusal
  | [], s => .next s
  | i :: is, s =>
    match exec i s with
    | .next t => execAll is t
    | .fault r => .fault r
    | .refused r => .refused r

/-- The event command that plays a pair of the trace back (45_encoder.md R244). -/
def TxPair.playback (p : TxPair) : Instr :=
  match p.kind with
  | .mark => .pulse p.dur
  | .space => .space p.dur

/-- The capture of a trace: CAPSTART, then one event a pair (45_encoder.md R244). -/
def captureOf (pairs : List TxPair) : List Instr := .capstart :: pairs.map TxPair.playback

/-- The queue entry that a capture of the emitted work frames completes (45_encoder.md R244). -/
def State.workEntry (s : State) : Entry :=
  match s.cfg.variant with
  | .sf => ⟨none, some s.wB⟩
  | .df => ⟨some s.wA, some s.wB⟩

end Sys2Proof.Machine
end

