-- ==== Sys2Proof/Certificates/Slice0/Obligations.lean ====
section
/-! DEFINITION. The statements for the provers. The helpers under `Sys2Proof.Statements` restate the spec's tables and
conditions in the statements' own words, apart from the model's definitions of them. -/

namespace Sys2Proof.Statements

open Sys2Proof.Machine

/-- `|a - b|` (00_scope.md R23). -/
def gap (a b : Nat) : Nat := ((a : Int) - (b : Int)).natAbs

/-- The rows of the opcode table: match, mask and opcode (30_encoding.md R91, R92, R95). -/
def opcodeRows : List (Word × Word × Opcode) :=
  [(0x00000000, 0xFFFFFFFF, .nop), (0x04000000, 0xFFFFFFFF, .capstart), (0x08000000, 0xFF000000, .pulse),
    (0x0C000000, 0xFF000000, .space), (0x10000000, 0xFFFFFFFF, .timeout), (0x14000000, 0xFFFFFFFF, .popcmd),
    (0x18000000, 0xFFFFFFFF, .chklead), (0x20000000, 0xFF000000, .clsm), (0x24000000, 0xFF000000, .clss),
    (0x40000000, 0xFFFFFFFF, .newf), (0x44000000, 0xFC00C0FF, .getr), (0x48000000, 0xFC00C0FF, .setr),
    (0x4C000000, 0xFC00FFFF, .getb), (0x50000000, 0xFC00FF00, .setb), (0x80000000, 0xFFFFFF00, .settemp),
    (0x84000000, 0xFFFFFFFF, .gettemp), (0x88000000, 0xFDFFFF00, .setmode), (0x8C000000, 0xFFFFFFFF, .getmode),
    (0x90000000, 0xFDFFFF00, .setfpwr), (0x94000000, 0xFFFFFFFF, .getfpwr), (0x98000000, 0xFDFFFF00, .setfang),
    (0x9C000000, 0xFFFFFFFF, .getfang), (0xA0000000, 0xFDFFFF00, .setfan), (0xA4000000, 0xFFFFFFFF, .getfan),
    (0xA8000000, 0xFDFFFF00, .setswing), (0xAC000000, 0xFFFFFFFF, .getswing), (0xC0000000, 0xFFFFFFFF, .ckgen),
    (0xC4000000, 0xFFFFFFFF, .ckchk), (0xC8000000, 0xFFFFFFFF, .getck), (0xE0000000, 0xFFFFFFFF, .emit)]

/-- The word's top six bits are a reserved opcode (30_encoding.md R96). -/
def reservedOpcode (w : Word) : Prop :=
  w.toNat / 2 ^ 26 ∈
    [0x07, 0x0A, 0x0B, 0x0C, 0x0D, 0x0E, 0x0F, 0x15, 0x16, 0x17, 0x18, 0x19, 0x1A, 0x1B, 0x1C, 0x1D, 0x1E, 0x1F,
      0x2C, 0x2D, 0x2E, 0x2F, 0x33, 0x34, 0x35, 0x36, 0x37, 0x39, 0x3A, 0x3B, 0x3C, 0x3D, 0x3E, 0x3F]

/-- The words of one command, by its opcode alone: two for SETR, one for every other (30_encoding.md R93, R96). -/
def WholeCommand (ws : List Word) : Prop :=
  (∃ w : Word, w.toNat / 2 ^ 26 ≠ 0x12 ∧ ws = [w]) ∨ ∃ w data : Word, w.toNat / 2 ^ 26 = 0x12 ∧ ws = [w, data]

/-- The state after the fault `c` of a command that is no event: recorded unless a fault is recorded already, with
FPOS = 0; nothing else changes (60_exceptions.md R262). -/
def afterFault (s : State) (c : FaultCode) : State :=
  if s.fcode = .noFault then { s with fcode := c, fpos := 0 } else s

/-- A command that raises `c` and does nothing else. -/
def Raises (i : Instr) (s : State) (c : FaultCode) : Prop := exec i s = .next (afterFault s c)

/-- An event that is counted and raises `c`, which is recorded with the event's ordinal (60_exceptions.md R262). -/
def EventRaises (i : Instr) (s : State) (c : FaultCode) : Prop :=
  exec i s = .next { s with evcnt := s.evcnt + 1, fcode := c, fpos := s.evcnt + 1 }

/-- The event commands. -/
def isEvent : Instr → Bool
  | .pulse _ | .space _ | .timeout => true
  | _ => false

/-- The commands that write the work frames (10_state.md R51). -/
def writesFrames : Instr → Bool
  | .newf | .popcmd | .setr _ _ _ _ | .setb _ _ _ | .settemp _ | .setmode _ | .setfpwr _ | .setfang _ | .setfan _
  | .setswing _ | .ckgen => true
  | _ => false

/-- The frame a selector names (42_bitframe.md R170). -/
def Selects (v : Variant) (f : BitVec 2) (x : Slot) : Prop :=
  (v = .sf ∧ f = 0 ∧ x = .b) ∨ (v = .df ∧ f = 1 ∧ x = .a) ∨ (v = .df ∧ f = 2 ∧ x = .b)

/-- The work frame holds a frame (10_state.md R52). -/
def Holds (s : State) (x : Slot) : Prop := (x = .a ∧ s.wvA = true) ∨ (x = .b ∧ s.wvB = true)

/-- Bit `i` of a work frame. -/
def frameBit (s : State) (x : Slot) (i : Nat) : Bool :=
  match x with
  | .a => s.wA.getLsbD i
  | .b => s.wB.getLsbD i

/-- The number of bits of a work frame (00_scope.md R10). -/
def bitsOf : Slot → Nat
  | .a => 64
  | .b => 152

/-- Byte `k` of a frame starts at bit `p` (20_memory.md R73). -/
def ByteAt (v : Variant) (x : Slot) (k p : Nat) : Prop :=
  (v = .sf ∧ x = .b ∧ k ≤ 18 ∧ p = 8 * k) ∨ (v = .df ∧ x = .a ∧ 1 ≤ k ∧ k ≤ 8 ∧ p = 8 * (k - 1)) ∨
    (v = .df ∧ x = .b ∧ 1 ≤ k ∧ k ≤ 19 ∧ p = 8 * (k - 1))

/-- The first bit of a byte of W_B that the layout names (20_memory.md R73). -/
def byteAt (c : Config) (k : Nat) : Nat :=
  match c.variant with
  | .sf => 8 * k
  | .df => 8 * (k - 1)

/-- A setter's operand gives the pattern `p` (43_fields.md R192). -/
def Resolves {w n : Nat} (arg : EnumArg) (pat : Vector (BitVec w) n) (p : BitVec w) : Prop :=
  (∃ index, ∃ h : index < n, arg = .named index ∧ p = pat[index]) ∨
    ∃ code : BitVec 8, arg = .raw code ∧ code.toNat < 2 ^ w ∧ p.toNat = code.toNat

/-- A setter's operand is out of range (43_fields.md R192). -/
def OutOfRange (arg : EnumArg) (w n : Nat) : Prop :=
  (∃ index, arg = .named index ∧ n ≤ index) ∨ ∃ code : BitVec 8, arg = .raw code ∧ 2 ^ w ≤ code.toNat

/-- A decoded field (43_fields.md R194): the raw code below the index of the first pattern that matches, 0xFF where
none does. -/
def Decodes {w n : Nat} (pat : Vector (BitVec w) n) (bits : BitVec w) (r : Word) : Prop :=
  (∃ index, ∃ h : index < n, pat[index] = bits ∧ (∀ j, ∀ hj : j < index, pat[j] ≠ bits) ∧
      r = BitVec.ofNat 32 (256 * index + bits.toNat)) ∨
    ((∀ j, ∀ hj : j < n, pat[j] ≠ bits) ∧ r = BitVec.ofNat 32 (256 * 255 + bits.toNat))

/-- The effect of a setter that writes the `w` bits from bit `p` of W_B and nothing else but RES. -/
def WritesField {w : Nat} (i : Instr) (s : State) (p : Nat) (v : BitVec w) : Prop :=
  ∃ t, exec i s = .next t ∧ t = { s with wB := t.wB, res := BitVec.ofNat 32 v.toNat } ∧
    ∀ j < 152, t.wB.getLsbD j = if p ≤ j ∧ j < p + w then v.getLsbD (j - p) else s.wB.getLsbD j

/-- A nibble setter of the variant `v` for the nibble that starts at `p`: it completes where its operand resolves. -/
def SetsNibble {n : Nat} (i : EnumArg → Instr) (v : Variant) (pat : Config → Vector (BitVec 4) n)
    (p : Config → Nat) : Prop :=
  ∀ (s : State) (arg : EnumArg) (x : BitVec 4), s.cfg.variant = v → s.wvB = true → Resolves arg (pat s.cfg) x →
    WritesField (i arg) s (p s.cfg) x

/-- A getter of the variant `v` for the `w` bits that start at `p`: it completes and writes RES alone. -/
def GetsField {w n : Nat} (i : Instr) (v : Variant) (pat : Config → Vector (BitVec w) n) (p : Config → Nat) : Prop :=
  ∀ s : State, s.cfg.variant = v → s.wvB = true →
    ∃ r, exec i s = .next { s with res := r } ∧ Decodes (pat s.cfg) (s.wB.extractLsb' (p s.cfg) w) r

/-- The first bit of the single-frame power nibble, nibble 1 of the fan byte (43_fields.md R193). -/
def powerAt (c : Config) : Nat := 8 * c.sf.fanByte + 4

/-- The first bit of the single-frame angle nibble, nibble 0 of the fan byte (43_fields.md R193). -/
def angleAt (c : Config) : Nat := 8 * c.sf.fanByte

/-- The first bit of the dual-frame swing nibble (43_fields.md R203). -/
def swingAt (c : Config) : Nat := 8 * (c.df.fsByte - 1) + 4 * c.df.swingNibble.val

/-- The first bit of the dual-frame fan nibble (43_fields.md R203). -/
def fanAt (c : Config) : Nat := 8 * (c.df.fsByte - 1) + 4 * (1 - c.df.swingNibble.val)

/-- The first bit of the dual-frame mode nibble (43_fields.md R199). -/
def modeAt (c : Config) : Nat := 8 * (c.df.modeByte - 1) + 4 * c.df.modeNibble.val

/-- The bit of the dual-frame misc flag (43_fields.md R200). -/
def miscAt (c : Config) : Nat := 8 * (c.df.miscByte - 1) + c.df.miscBit.val

/-- The temperature byte's number, the modifier byte's, and the half and limit bits (43_fields.md R196). -/
def tempLayout (c : Config) : Nat × Nat × Nat × Nat :=
  match c.variant with
  | .sf => (c.sf.tempByte, c.sf.tmodByte, c.sf.halfBit, c.sf.limitBit)
  | .df => (c.df.tempByte, c.df.tmodByte, c.df.halfBit, c.df.limitBit)

/-- The clamped half-degrees (43_fields.md R195). -/
def clamped (t2 : Nat) : Nat := if t2 ≤ 32 then 32 else if 60 ≤ t2 then 60 else t2

/-- The limit flag (43_fields.md R195). -/
def limited (t2 : Nat) : Bool := decide (t2 ≤ 32 ∨ 60 ≤ t2)

/-- The number that the temperature byte holds (43_fields.md R196). -/
def tempNumber (v : Variant) (t2c : Nat) : Nat :=
  match v with
  | .sf => 2 * (t2c / 2)
  | .df => t2c / 2

/-- A temperature result (43_fields.md R197, R198). -/
def tempRes (limit half : Bool) (t2 : Nat) : Word :=
  BitVec.ofNat 32 (131072 * limit.toNat + 65536 * half.toNat + t2)

/-- Byte `k` of the dual-frame data frame, as its number (20_memory.md R73, R74). -/
def dfByte (s : State) (k : Nat) : BitVec 8 := s.wB.extractLsb' (8 * (k - 1)) 8

/-- The sum of the bytes 1 to 18, mod 256 (44_checksum.md R230). -/
def byteSum (s : State) : Nat := (((List.range 18).map fun j => (dfByte s (j + 1)).toNat).sum) % 256

/-- `l` is what `EmitFrame` appends for a frame of `n` bits (45_encoder.md R241). -/
def IsEmission (c : Config) (n : Nat) (bit : Nat → Bool) (l : List TxPair) : Prop :=
  l.length = 2 * n + 4 ∧ l[0]? = some ⟨.mark, c.refHdrMark⟩ ∧ l[1]? = some ⟨.space, c.refHdrSpace⟩ ∧
    (∀ j < n, l[2 + 2 * j]? = some ⟨.mark, c.refMark⟩ ∧
      l[3 + 2 * j]? = some ⟨.space, if bit j then c.refLong else c.refShort⟩) ∧
    l[2 * n + 2]? = some ⟨.mark, c.refMark⟩ ∧ l[2 * n + 3]? = some ⟨.space, c.refSep⟩

/-- A SPACE that is counted and whose duration is of class `sc` (41_synchronizer.md R134). -/
def SpaceReady (s : State) (dur : Nat) (mc : MarkClass) (sc : SpaceClass) : Prop :=
  s.fcode = .noFault ∧ s.pend = true ∧ s.pmark = mc ∧ classSpace s.cfg dur = some sc

/-- What RES shows of an entry that POPCMD takes (41_synchronizer.md R145). -/
def popCode (e : Entry) : Word := BitVec.ofNat 32 (1 + 2 * e.fa.isSome.toNat + 4 * e.fb.isSome.toNat)

end Sys2Proof.Statements

open Sys2Proof Sys2Proof.Machine Sys2Proof.Statements

/-! ### Encoding and the command port -/

/-- Decoding the words of a well-formed command gives the command, whatever follows (30_encoding.md R91, R93, R94). -/
def Obligations.DecodeOfEncode : Prop :=
  ∀ (i : Instr) (rest : List Word), i.wellFormed = true → decode (encode i ++ rest) = .command i rest

/-- The words a command is decoded from are its encoding: each word has one meaning, and no bit of it is ignored
(30_encoding.md R92, R94). -/
def Obligations.EncodeOfDecode : Prop :=
  ∀ (ws : List Word) (i : Instr) (rest : List Word),
    decode ws = .command i rest → i.wellFormed = true ∧ ws = encode i ++ rest

/-- A word is a command of a row of the opcode table exactly where it has the row's fixed bits (30_encoding.md R95). -/
def Obligations.OpcodeTableRowsDecode : Prop :=
  ∀ row ∈ opcodeRows, ∀ w data : Word,
    (w &&& row.2.1 = row.1) ↔ ∃ i rest, decode [w, data] = .command i rest ∧ i.opcode = row.2.2

/-- A command word with a reserved opcode faults with ILLEGAL_COMMAND and FPOS = 0, takes no second word, and has no
other effect than its leaving the port (30_encoding.md R96). -/
def Obligations.ReservedOpcodeFaults : Prop :=
  ∀ (s : State) (w : Word) (rest : List Word), s.resetIn = false → s.port = w :: rest → reservedOpcode w →
    step s = .next (afterFault { s with port := rest } .illegalCommand)

/-- A command word with a non-zero reserved or must-be-0 field faults with ILLEGAL_COMMAND and FPOS = 0 and has no other
effect than the words' leaving the port (30_encoding.md R92). That an illegal SETR word takes its data word with it is
the model's reading of R93 (log 7). -/
def Obligations.NonzeroReservedFieldFaults : Prop :=
  ∀ (s : State) (w : Word) (rest : List Word), s.resetIn = false →
    ∀ row ∈ opcodeRows, w &&& 0xFC000000 = row.1 → w &&& row.2.1 ≠ row.1 →
      (row.2.2 ≠ .setr → s.port = w :: rest →
        step s = .next (afterFault { s with port := rest } .illegalCommand)) ∧
      (row.2.2 = .setr → ∀ data, s.port = w :: data :: rest →
        step s = .next (afterFault { s with port := rest } .illegalCommand))

/-- When the words on the port begin with a command, the step takes them and executes it (10_state.md R40). -/
def Obligations.StepRunsDecodedCommand : Prop :=
  ∀ (s : State) (i : Instr) (rest : List Word), s.resetIn = false → decode s.port = .command i rest →
    step s = exec i { s with port := rest }

/-- With no word on the port, or a SETR word whose data word has not come, the block waits: nothing changes
(30_encoding.md R93). That a step is then idle is the model's choice (log 4); that a SETR word with a non-zero reserved
field waits for its data word too, before it faults, is the model's reading of R93 (log 7). -/
def Obligations.BlockWaitsForWholeCommand : Prop :=
  ∀ s : State, s.resetIn = false →
    (s.port = [] ∨ ∃ w : Word, w.toNat / 2 ^ 26 = 0x12 ∧ s.port = [w]) → step s = .next s

/-- The sample words of 30_encoding.md R101 decode to their commands. -/
def Obligations.SampleWordsDecode : Prop :=
  decode [0x080001D1#32] = .command (.pulse 465) [] ∧ decode [0x0C0004FB#32] = .command (.space 1275) [] ∧
    decode [0x4E130000#32] = .command (.getb 2 19) [] ∧ decode [0x88000003#32] = .command (.setmode (.named 3)) [] ∧
    decode [0x8A000041#32] = .command (.setmode (.raw 0x41)) [] ∧
    decode [0x48280800#32, 0x00000041#32] = .command (.setr 0 40 8 0x41) []

/-! ### Classifier -/

/-- `Nearest` gives a pair of the table at the least distance, and of those the one with the smallest reference
(40_classifier.md R111). -/
def Obligations.NearestIsClosestThenSmallest : Prop :=
  ∀ (κ : Type) (d : Nat) (first : κ × Nat) (others : List (κ × Nat)),
    nearest d first others ∈ first :: others ∧
      ∀ e ∈ first :: others, gap d (nearest d first others).2 ≤ gap d e.2 ∧
        (gap d (nearest d first others).2 = gap d e.2 → (nearest d first others).2 ≤ e.2)

/-- A duration equal to a reference is of that reference's class in both variants, and the single-frame classifier is
never ambiguous (40_classifier.md R119). -/
def Obligations.ReferencesClassifyToTheirClass : Prop :=
  ∀ c : Config, c.Ok →
    (classMark c c.refMark = some .mark ∧ classMark c c.refHdrMark = some .headerMark ∧
      classSpace c c.refShort = some .short ∧ classSpace c c.refLong = some .long ∧
      classSpace c c.refSep = some .separator ∧ classSpace c c.refHdrSpace = some .headerSpace) ∧
    (c.variant = .sf → ∀ d, classMark c d ≠ none ∧ classSpace c d ≠ none)

/-- CLSM completes in every state and writes RES alone: 7 beyond the tolerance (dual-frame only), else the nearer
reference's class, the smaller reference at a tie (40_classifier.md R110 to R113, R117). -/
def Obligations.ClsmAnswersNearestClass : Prop :=
  ∀ (s : State) (d : Nat),
    exec (.clsm d) s = .next { s with
      res :=
        if s.cfg.variant = .df ∧ s.cfg.delta < gap d s.cfg.refMark ∧ s.cfg.delta < gap d s.cfg.refHdrMark then 7
        else if gap d s.cfg.refMark < gap d s.cfg.refHdrMark ∨
          gap d s.cfg.refMark = gap d s.cfg.refHdrMark ∧ s.cfg.refMark ≤ s.cfg.refHdrMark then 0
        else 1 }

/-- CLSS completes in every state and writes RES alone: 7 exactly where every reference is beyond the tolerance
(dual-frame only), else the code of a class whose reference is at the least distance and smallest among those
(40_classifier.md R110 to R112, R114, R118). -/
def Obligations.ClssAnswersNearestClass : Prop :=
  ∀ (s : State) (d : Nat), ∃ v, exec (.clss d) s = .next { s with res := v } ∧
    let refs := [s.cfg.refShort, s.cfg.refLong, s.cfg.refSep, s.cfg.refHdrSpace]
    (v = 7 ↔ s.cfg.variant = .df ∧ ∀ r ∈ refs, s.cfg.delta < gap d r) ∧
    (v ≠ 7 → ∃ j, ∃ h : j < refs.length, v = BitVec.ofNat 32 j ∧
      ∀ r ∈ refs, gap d refs[j] ≤ gap d r ∧ (gap d refs[j] = gap d r → refs[j] ≤ r))

/-! ### Synchronizer -/

/-- NOP completes in every state and writes RES alone (41_synchronizer.md R131). -/
def Obligations.NopClearsResultOnly : Prop := ∀ s : State, exec .nop s = .next { s with res := 0 }

/-- CAPSTART completes in every state: it clears the fault, the counter, the synchronizer, the queue and RES, and
keeps the work frames, their valid bits and the trace (41_synchronizer.md R132). -/
def Obligations.CapstartRestartsCapture : Prop :=
  ∀ s : State, exec .capstart s = .next { s with
    fcode := .noFault, fpos := 0, evcnt := 0, sync := .awaitHeader,
    act := if s.cfg.variant = .df then .a else .b,
    pend := false, pmark := .mark, cntA := 0, cntB := 0, doneA := false, oq := [], res := 0 }

/-- A PULSE with no fault recorded, no pulse pending and an unambiguous duration is counted and held
(41_synchronizer.md R133). -/
def Obligations.PulseIsHeldPending : Prop :=
  ∀ (s : State) (d : Nat) (mc : MarkClass), s.fcode = .noFault → s.pend = false → classMark s.cfg d = some mc →
    exec (.pulse d) s = .next { s with
      evcnt := s.evcnt + 1, pend := true, pmark := mc, res := if mc = .headerMark then 1 else 0 }

/-- A counted PULSE faults with MALFORMED while a pulse is pending, else with AMBIGUOUS where its duration is; its
count and ordinal are kept and nothing else changes (41_synchronizer.md R133; 60_exceptions.md R262). -/
def Obligations.PulseFaults : Prop :=
  ∀ (s : State) (d : Nat), s.fcode = .noFault →
    (s.pend = true → EventRaises (.pulse d) s .malformed) ∧
    (s.pend = false → classMark s.cfg d = none → EventRaises (.pulse d) s .ambiguous)

/-- While a fault is recorded an event changes nothing at all, and every other command does what it does without the
fault, but for the fault record (41_synchronizer.md R136). -/
def Obligations.RecordedFaultStopsEventsOnly : Prop :=
  ∀ (s : State) (i : Instr), s.fcode ≠ .noFault →
    (isEvent i = true → exec i s = .next s) ∧
    (isEvent i = false → ∃ t u, exec i s = .next t ∧ exec i { s with fcode := .noFault, fpos := 0 } = .next u ∧
      { t with fcode := .noFault, fpos := 0 } = { u with fcode := .noFault, fpos := 0 })

/-- A header pair enters IN_FRAME in every synchronizer state and keeps ACT, the buffers, the counts and DONE_A
(41_synchronizer.md R134, R137). -/
def Obligations.HeaderEntersFrame : Prop :=
  ∀ (s : State) (d : Nat), SpaceReady s d .headerMark .headerSpace →
    exec (.space d) s = .next { s with evcnt := s.evcnt + 1, sync := .inFrame, pend := false, res := 0 }

/-- A data bit inside a frame with room is stored at the bit that the count names and the count goes up by one; no
other bit of the buffers and nothing of the other slot changes (41_synchronizer.md R134, R138; 20_memory.md R72). -/
def Obligations.DataBitIsAppended : Prop :=
  ∀ (s : State) (d : Nat) (bit : Bool), SpaceReady s d .mark (if bit then .long else .short) →
    s.sync = .inFrame →
    (s.act = .a → s.cntA < 64 → ∃ t, exec (.space d) s = .next t ∧
      t = { s with evcnt := s.evcnt + 1, pend := false, res := if bit then 3 else 2, cntA := s.cntA + 1,
                   abufA := t.abufA } ∧
      ∀ j < 64, t.abufA.getLsbD j = if j = s.cntA then bit else s.abufA.getLsbD j) ∧
    (s.act = .b → s.cntB < 152 → ∃ t, exec (.space d) s = .next t ∧
      t = { s with evcnt := s.evcnt + 1, pend := false, res := if bit then 3 else 2, cntB := s.cntB + 1,
                   abufB := t.abufB } ∧
      ∀ j < 152, t.abufB.getLsbD j = if j = s.cntB then bit else s.abufB.getLsbD j)

/-- The faults of a counted SPACE before any symbol takes effect, and those of a data bit: MALFORMED, AMBIGUOUS,
PAIR_MISMATCH, BIT_OUTSIDE_FRAME, FRAME_OVERFLOW, in this order (41_synchronizer.md R134, R138; 40_classifier.md R115). -/
def Obligations.SpaceFaults : Prop :=
  ∀ (s : State) (d : Nat), s.fcode = .noFault →
    (s.pend = false → EventRaises (.space d) s .malformed) ∧
    (s.pend = true → classSpace s.cfg d = none → EventRaises (.space d) s .ambiguous) ∧
    (SpaceReady s d .mark .headerSpace → EventRaises (.space d) s .pairMismatch) ∧
    (∀ sc, sc ≠ .headerSpace → SpaceReady s d .headerMark sc → EventRaises (.space d) s .pairMismatch) ∧
    (∀ bit : Bool, SpaceReady s d .mark (if bit then .long else .short) →
      (s.sync ≠ .inFrame → EventRaises (.space d) s .bitOutsideFrame) ∧
      (s.sync = .inFrame → (s.act = .a ∧ s.cntA = 64 ∨ s.act = .b ∧ s.cntB = 152) →
        EventRaises (.space d) s .frameOverflow))

/-- A separator of the single-frame variant: an empty frame only moves to AWAIT_NEXT, a full one is pushed, a partial
one faults with FRAME_LENGTH, a full one with no room with QUEUE_OVERFLOW (41_synchronizer.md R139, R141, R144). -/
def Obligations.SeparatorSingleFrame : Prop :=
  ∀ (s : State) (d : Nat), SpaceReady s d .mark .separator → s.cfg.variant = .sf → s.act = .b →
    (s.cntB = 0 → exec (.space d) s = .next { s with
      evcnt := s.evcnt + 1, sync := .awaitNext, pend := false, res := 1 }) ∧
    (s.cntB = 152 → s.oq.length < s.cfg.oqDepth → exec (.space d) s = .next { s with
      evcnt := s.evcnt + 1, sync := .awaitNext, pend := false, res := 1, cntB := 0,
      oq := s.oq ++ [⟨none, some s.abufB⟩] }) ∧
    (0 < s.cntB → s.cntB < 152 → EventRaises (.space d) s .frameLength) ∧
    (s.cntB = 152 → s.oq.length = s.cfg.oqDepth → EventRaises (.space d) s .queueOverflow)

/-- A separator of the dual-frame variant: an empty frame only moves to AWAIT_NEXT; a full frame 1 is kept and the data
frame becomes active; a full frame 2 pushes the pair; partial frames and a full queue fault (41_synchronizer.md R140,
R141, R144; ACT read as it was before the separator, log 8). -/
def Obligations.SeparatorDualFrame : Prop :=
  ∀ (s : State) (d : Nat), SpaceReady s d .mark .separator → s.cfg.variant = .df →
    (s.activeCount = 0 → exec (.space d) s = .next { s with
      evcnt := s.evcnt + 1, sync := .awaitNext, pend := false, res := 1 }) ∧
    (s.act = .a → s.cntA = 64 → exec (.space d) s = .next { s with
      evcnt := s.evcnt + 1, sync := .awaitNext, pend := false, res := 1, doneA := true, act := .b, cntB := 0 }) ∧
    (s.act = .b → s.cntB = 152 → s.oq.length < s.cfg.oqDepth → exec (.space d) s = .next { s with
      evcnt := s.evcnt + 1, sync := .awaitNext, pend := false, res := 1, cntA := 0, cntB := 0, doneA := false,
      act := .a, oq := s.oq ++ [⟨some s.abufA, some s.abufB⟩] }) ∧
    ((s.act = .a ∧ 0 < s.cntA ∧ s.cntA < 64) ∨ (s.act = .b ∧ 0 < s.cntB ∧ s.cntB < 152) →
      EventRaises (.space d) s .frameLength) ∧
    (s.act = .b → s.cntB = 152 → s.oq.length = s.cfg.oqDepth → EventRaises (.space d) s .queueOverflow)

/-- In every state that keeps the invariant, a separator outside a frame changes nothing but SYNC, the pending pulse,
the event count and RES (41_synchronizer.md R149). -/
def Obligations.SeparatorOutsideFrameIsNoise : Prop :=
  ∀ (s : State) (d : Nat), s.Inv → SpaceReady s d .mark .separator → s.sync ≠ .inFrame →
    exec (.space d) s = .next { s with evcnt := s.evcnt + 1, sync := .awaitNext, pend := false, res := 1 }

/-- A TIMEOUT of the single-frame variant flushes a full frame and drops a pending pulse; a partial frame faults, and a
full one with no room too (41_synchronizer.md R135, R141, R142, R144). -/
def Obligations.TimeoutSingleFrame : Prop :=
  ∀ s : State, s.fcode = .noFault → s.cfg.variant = .sf → s.act = .b →
    (s.cntB = 0 → exec .timeout s = .next { s with
      evcnt := s.evcnt + 1, sync := .awaitHeader, pend := false, pmark := .mark, cntA := 0, cntB := 0,
      doneA := false, res := 0 }) ∧
    (s.cntB = 152 → s.oq.length < s.cfg.oqDepth → exec .timeout s = .next { s with
      evcnt := s.evcnt + 1, sync := .awaitHeader, pend := false, pmark := .mark, cntA := 0, cntB := 0,
      doneA := false, res := 1, oq := s.oq ++ [⟨none, some s.abufB⟩] }) ∧
    (0 < s.cntB → s.cntB < 152 → EventRaises .timeout s .frameLength) ∧
    (s.cntB = 152 → s.oq.length = s.cfg.oqDepth → EventRaises .timeout s .queueOverflow)

/-- A TIMEOUT of the dual-frame variant pushes what the table of 41_synchronizer.md R143 says, or nothing, and restarts
the synchronizer; a partial active frame faults, and a push with no room too (R135, R141, R143, R144). That a waiting
frame 1 is flushed with frame 2 empty, after a header too, follows R143 where R147 says otherwise: the model's choice
(log 19). -/
def Obligations.TimeoutDualFrame : Prop :=
  ∀ s : State, s.fcode = .noFault → s.cfg.variant = .df →
    let restarted := fun (t : State) => { t with
      evcnt := s.evcnt + 1, sync := .awaitHeader, act := .a, pend := false, pmark := .mark, cntA := 0, cntB := 0,
      doneA := false }
    let flushes := fun (e : Entry) =>
      (s.oq.length < s.cfg.oqDepth →
        exec .timeout s = .next { restarted s with res := 1, oq := s.oq ++ [e] }) ∧
      (s.oq.length = s.cfg.oqDepth → EventRaises .timeout s .queueOverflow)
    (s.act = .a → s.doneA = false → s.cntA = 0 → exec .timeout s = .next { restarted s with res := 0 }) ∧
    (s.act = .a → s.doneA = false → s.cntA = 64 → flushes ⟨some s.abufA, none⟩) ∧
    (s.act = .b → s.doneA = true → s.cntB = 0 → flushes ⟨some s.abufA, none⟩) ∧
    (s.act = .b → s.doneA = true → s.cntB = 152 → flushes ⟨some s.abufA, some s.abufB⟩) ∧
    ((s.act = .a ∧ 0 < s.cntA ∧ s.cntA < 64) ∨ (s.act = .b ∧ 0 < s.cntB ∧ s.cntB < 152) →
      EventRaises .timeout s .frameLength)

/-- POPCMD completes in every state: an empty queue gives RES = 0 and nothing else; otherwise the oldest entry leaves
the queue, the valid bits follow its presence bits, and the frames it has are loaded (41_synchronizer.md R145). -/
def Obligations.PopcmdTakesOldestEntry : Prop :=
  ∀ s : State,
    (s.oq = [] → exec .popcmd s = .next { s with res := 0 }) ∧
    (∀ e rest, s.oq = e :: rest →
      (s.cfg.variant = .sf → ∃ t, exec .popcmd s = .next t ∧
        t = { s with oq := rest, res := popCode e, wvB := e.fb.isSome, wB := t.wB } ∧
        (∀ x, e.fb = some x → t.wB = x)) ∧
      (s.cfg.variant = .df → ∃ t, exec .popcmd s = .next t ∧
        t = { s with oq := rest, res := popCode e, wvA := e.fa.isSome, wA := t.wA, wvB := e.fb.isSome,
                     wB := t.wB } ∧
        (∀ x, e.fa = some x → t.wA = x) ∧ (∀ x, e.fb = some x → t.wB = x)))

/-- CHKLEAD with the frame it checks valid writes RES alone: 1 exactly where the lead-in or the command frame is the
template's, bit by bit (41_synchronizer.md R146). -/
def Obligations.ChkleadComparesTemplate : Prop :=
  ∀ s : State,
    (s.cfg.variant = .sf → s.wvB = true → ∃ v, exec .chklead s = .next { s with res := v } ∧ (v = 0 ∨ v = 1) ∧
      (v = 1 ↔ ∀ j < 40, s.wB.getLsbD j = s.cfg.sfTemplate.getLsbD j)) ∧
    (s.cfg.variant = .df → s.wvA = true → ∃ v, exec .chklead s = .next { s with res := v } ∧ (v = 0 ∨ v = 1) ∧
      (v = 1 ↔ ∀ j < 64, s.wA.getLsbD j = s.cfg.dfTemplateA.getLsbD j))

/-! ### Bit-frame indexer -/

/-- NEWF completes in every state: it loads the variant's templates, sets their valid bits, and clears RES
(42_bitframe.md R171). -/
def Obligations.NewfLoadsTemplates : Prop :=
  ∀ s : State,
    (s.cfg.variant = .sf → exec .newf s = .next { s with wB := s.cfg.sfTemplate, wvB := true, res := 0 }) ∧
    (s.cfg.variant = .df → exec .newf s = .next { s with
      wA := s.cfg.dfTemplateA, wB := s.cfg.dfTemplateB, wvA := true, wvB := true, res := 0 })

/-- GETR of a range inside a valid frame writes RES alone: bit `j` of RES is frame bit `start + j`, zero from `len` on
(42_bitframe.md R172). -/
def Obligations.GetrReadsRange : Prop :=
  ∀ (s : State) (f : BitVec 2) (x : Slot) (start len : Nat),
    len ≤ 32 → Selects s.cfg.variant f x → Holds s x → start + len ≤ bitsOf x →
    ∃ v, exec (.getr f start len) s = .next { s with res := v } ∧
      ∀ j < 32, v.getLsbD j = (decide (j < len) && frameBit s x (start + j))

/-- SETR of a range inside a valid frame writes the data's low bits there and clears RES; every other bit of both
frames, and all other state, is kept (42_bitframe.md R173). -/
def Obligations.SetrWritesRange : Prop :=
  ∀ (s : State) (f : BitVec 2) (x : Slot) (start len : Nat) (data : Word),
    len ≤ 32 → Selects s.cfg.variant f x → Holds s x → start + len ≤ bitsOf x →
    ∃ t, exec (.setr f start len data) s = .next t ∧ t = { s with wA := t.wA, wB := t.wB, res := 0 } ∧
      ∀ (y : Slot) (j : Nat), frameBit t y j =
        if y = x ∧ start ≤ j ∧ j < start + len then data.getLsbD (j - start) else frameBit s y j

/-- GETB of a byte of a valid frame writes RES alone, the byte's first bit at bit 0 (42_bitframe.md R174). -/
def Obligations.GetbReadsByte : Prop :=
  ∀ (s : State) (f : BitVec 2) (x : Slot) (k p : Nat),
    Selects s.cfg.variant f x → Holds s x → ByteAt s.cfg.variant x k p →
    ∃ v, exec (.getb f k) s = .next { s with res := v } ∧
      ∀ j < 32, v.getLsbD j = (decide (j < 8) && frameBit s x (p + j))

/-- SETB of a byte of a valid frame writes the byte and clears RES; every other bit of both frames, and all other state,
is kept (42_bitframe.md R175). -/
def Obligations.SetbWritesByte : Prop :=
  ∀ (s : State) (f : BitVec 2) (x : Slot) (k p : Nat) (v : BitVec 8),
    Selects s.cfg.variant f x → Holds s x → ByteAt s.cfg.variant x k p →
    ∃ t, exec (.setb f k v) s = .next t ∧ t = { s with wA := t.wA, wB := t.wB, res := 0 } ∧
      ∀ (y : Slot) (j : Nat), frameBit t y j =
        if y = x ∧ p ≤ j ∧ j < p + 8 then v.getLsbD (j - p) else frameBit s y j

/-- The faults of the four frame accesses, in the order length, selector, valid bit, bounds (42_bitframe.md R170,
R172 to R176; 60_exceptions.md R253). -/
def Obligations.FrameAccessFaults : Prop :=
  ∀ (s : State) (f : BitVec 2),
    (∀ (start len : Nat) (data : Word), ∀ i ∈ [Instr.getr f start len, Instr.setr f start len data],
      (32 < len → Raises i s .illegalOperand) ∧
      (len ≤ 32 → (∀ x, ¬Selects s.cfg.variant f x) → Raises i s .illegalOperand) ∧
      (∀ x, len ≤ 32 → Selects s.cfg.variant f x → ¬Holds s x → Raises i s .uninit) ∧
      (∀ x, len ≤ 32 → Selects s.cfg.variant f x → Holds s x → bitsOf x < start + len → Raises i s .range)) ∧
    (∀ (k : Nat) (v : BitVec 8), ∀ i ∈ [Instr.getb f k, Instr.setb f k v],
      ((∀ x, ¬Selects s.cfg.variant f x) → Raises i s .illegalOperand) ∧
      (∀ x, Selects s.cfg.variant f x → ¬Holds s x → Raises i s .uninit) ∧
      (∀ x, Selects s.cfg.variant f x → Holds s x → (∀ p, ¬ByteAt s.cfg.variant x k p) → Raises i s .range))

/-- A command that is no event, no POPCMD and no EMIT changes nothing when it is repeated at once; one that writes no
frame, CAPSTART aside, changes no state but RES and the fault record (20_memory.md R81). -/
def Obligations.RepeatedCommandChangesNothing : Prop :=
  ∀ (s : State) (i : Instr), isEvent i = false → i ≠ .popcmd → i ≠ .emit →
    ∃ t, exec i s = .next t ∧ exec i t = .next t ∧
      (writesFrames i = false → i ≠ .capstart → t = { s with res := t.res, fcode := t.fcode, fpos := t.fpos })

/-- The units keep apart (10_state.md R51, R53, R57; 70_reset_and_hazards.md R285): only the frame-writing commands
change the work frames, only NEWF and POPCMD their valid bits, only events and CAPSTART the synchronizer and the event
count, only those and POPCMD the queue, and only EMIT the trace. -/
def Obligations.UnitsKeepApart : Prop :=
  ∀ (s : State) (i : Instr), ∃ t, exec i s = .next t ∧
    (writesFrames i = false → t.wA = s.wA ∧ t.wB = s.wB) ∧
    (i ≠ .newf → i ≠ .popcmd → t.wvA = s.wvA ∧ t.wvB = s.wvB) ∧
    (isEvent i = false → i ≠ .capstart →
      t.sync = s.sync ∧ t.act = s.act ∧ t.pend = s.pend ∧ t.pmark = s.pmark ∧ t.abufA = s.abufA ∧
        t.abufB = s.abufB ∧ t.cntA = s.cntA ∧ t.cntB = s.cntB ∧ t.doneA = s.doneA ∧ t.evcnt = s.evcnt) ∧
    (isEvent i = false → i ≠ .capstart → i ≠ .popcmd → t.oq = s.oq) ∧
    (i ≠ .emit → t.tx = s.tx)

/-! ### Field packer -/

/-- SETTEMP on a valid frame of a well-formed block writes the temperature byte, the half bit and the limit bit of the
clamped temperature, and RES; every other bit of W_B and all other state is kept (43_fields.md R195 to R197). -/
def Obligations.SettempStoresTemperature : Prop :=
  ∀ (s : State) (t2 : Nat), s.cfg.Ok → s.wvB = true →
    let (tempByte, tmodByte, halfBit, limitBit) := tempLayout s.cfg
    ∃ t, exec (.settemp t2) s = .next t ∧
      t = { s with wB := t.wB, res := tempRes (limited t2) (decide (clamped t2 % 2 = 1)) (clamped t2) } ∧
      ∀ j < 152, t.wB.getLsbD j =
        if byteAt s.cfg tempByte ≤ j ∧ j < byteAt s.cfg tempByte + 8 then
          (tempNumber s.cfg.variant (clamped t2)).testBit (j - byteAt s.cfg tempByte)
        else if j = byteAt s.cfg tmodByte + halfBit then decide (clamped t2 % 2 = 1)
        else if j = byteAt s.cfg tmodByte + limitBit then limited t2
        else s.wB.getLsbD j

/-- GETTEMP on a valid frame writes RES alone: the limit bit, the half bit and twice the whole degrees plus the half,
as captured, without a clamp (43_fields.md R198). -/
def Obligations.GettempReadsTemperature : Prop :=
  ∀ s : State, s.wvB = true →
    let (tempByte, tmodByte, halfBit, limitBit) := tempLayout s.cfg
    let b := (s.wB.extractLsb' (byteAt s.cfg tempByte) 8).toNat
    let degrees := if s.cfg.variant = .sf then b / 2 else b
    let half := s.wB.getLsbD (byteAt s.cfg tmodByte + halfBit)
    let limit := s.wB.getLsbD (byteAt s.cfg tmodByte + limitBit)
    exec .gettemp s = .next { s with res := tempRes limit half (2 * degrees + half.toNat) }

/-- SETMODE of the single-frame variant writes the eight bits of the mode byte and RES (43_fields.md R192, R199). -/
def Obligations.SetmodeSingleFrame : Prop :=
  ∀ (s : State) (arg : EnumArg) (p : BitVec 8), s.cfg.variant = .sf → s.wvB = true →
    Resolves arg s.cfg.sfModePat p → WritesField (.setmode arg) s (8 * s.cfg.sf.modeByte) p

/-- SETMODE of the dual-frame variant, in a well-formed block, writes the mode nibble, the misc bit where a named mode
gives it a value, and RES; every other bit of W_B and all other state is kept (43_fields.md R192, R199, R200). -/
def Obligations.SetmodeDualFrame : Prop :=
  ∀ (s : State) (arg : EnumArg) (p : BitVec 4), s.cfg.Ok → s.cfg.variant = .df → s.wvB = true →
    Resolves arg s.cfg.dfModePat p →
    ∃ t, exec (.setmode arg) s = .next t ∧ t = { s with wB := t.wB, res := BitVec.ofNat 32 p.toNat } ∧
      (∀ j < 152, j ≠ miscAt s.cfg → t.wB.getLsbD j =
        if modeAt s.cfg ≤ j ∧ j < modeAt s.cfg + 4 then p.getLsbD (j - modeAt s.cfg) else s.wB.getLsbD j) ∧
      (∀ index, ∀ h : index < 5, arg = .named index →
        (∀ b, s.cfg.dfMiscVal[index] = .put b → t.wB.getLsbD (miscAt s.cfg) = b) ∧
        (s.cfg.dfMiscVal[index] = .keep → t.wB.getLsbD (miscAt s.cfg) = s.wB.getLsbD (miscAt s.cfg))) ∧
      (∀ code, arg = .raw code → t.wB.getLsbD (miscAt s.cfg) = s.wB.getLsbD (miscAt s.cfg))

/-- SETFPWR, SETFANG, SETFAN and SETSWING write the four bits of their own nibble and RES, and keep the rest
(43_fields.md R192, R193, R202 to R205, R208, R209). -/
def Obligations.NibbleSettersWriteOwnNibble : Prop :=
  SetsNibble .setfpwr .sf Config.sfPwrPat powerAt ∧ SetsNibble .setfang .sf Config.sfAngPat angleAt ∧
    SetsNibble .setfan .df Config.dfFanPat fanAt ∧ SetsNibble .setswing .df Config.dfSwingPat swingAt

/-- The enumeration getters write RES alone: the index of the pattern, 0xFF where the table has none, above the raw
code (43_fields.md R194, R201, R206, R207, R210, R211). -/
def Obligations.EnumGettersDecode : Prop :=
  GetsField .getmode .sf Config.sfModePat (fun c => 8 * c.sf.modeByte) ∧
    GetsField .getmode .df Config.dfModePat modeAt ∧ GetsField .getfpwr .sf Config.sfPwrPat powerAt ∧
    GetsField .getfang .sf Config.sfAngPat angleAt ∧ GetsField .getfan .df Config.dfFanPat fanAt ∧
    GetsField .getswing .df Config.dfSwingPat swingAt

/-- Every named value reads back as it was set, and every temperature as it was clamped, with its limit bit
(43_fields.md R212). -/
def Obligations.FieldsRoundTrip : Prop :=
  ∀ s : State, s.cfg.Ok → s.wvB = true →
    let reads := fun (put get : Instr) (p : Word → Prop) =>
      ∃ t u, exec put s = .next t ∧ exec get t = .next u ∧ p u.res
    let index := fun (k : Nat) (r : Word) => r.extractLsb' 8 8 = BitVec.ofNat 8 k
    (∀ k < 5, reads (.setmode (.named k)) .getmode (index k)) ∧
    (s.cfg.variant = .sf → (∀ k < 5, reads (.setfpwr (.named k)) .getfpwr (index k)) ∧
      ∀ k < 6, reads (.setfang (.named k)) .getfang (index k)) ∧
    (s.cfg.variant = .df → (∀ k < 6, reads (.setfan (.named k)) .getfan (index k)) ∧
      ∀ k < 6, reads (.setswing (.named k)) .getswing (index k)) ∧
    (∀ t2, reads (.settemp t2) .gettemp fun r =>
      r.extractLsb' 0 9 = BitVec.ofNat 9 (clamped t2) ∧ r.getLsbD 17 = limited t2)

/-- A setter of one nibble never changes what the getter of the other nibble answers (43_fields.md R213). -/
def Obligations.NibbleFieldsAreIndependent : Prop :=
  ∀ (s : State) (arg : EnumArg),
    let keeps := fun (put get : Instr) => ∃ t u v, exec put s = .next t ∧ exec get s = .next u ∧
      exec get t = .next v ∧ v.res = u.res
    (s.cfg.variant = .sf → keeps (.setfpwr arg) .getfang ∧ keeps (.setfang arg) .getfpwr) ∧
    (s.cfg.variant = .df → keeps (.setfan arg) .getswing ∧ keeps (.setswing arg) .getfan)

/-- The commands of the other variant fault with WRONG_VARIANT, whatever their operand and the frames
(60_exceptions.md R252). -/
def Obligations.OtherVariantFaults : Prop :=
  ∀ (s : State) (arg : EnumArg),
    (s.cfg.variant = .df → ∀ i ∈ [Instr.setfpwr arg, .getfpwr, .setfang arg, .getfang], Raises i s .wrongVariant) ∧
    (s.cfg.variant = .sf → ∀ i ∈ [Instr.setfan arg, .getfan, .setswing arg, .getswing], Raises i s .wrongVariant)

/-- The other faults of the field, checksum, lead-in and encoder commands: an operand out of range before an invalid
frame (43_fields.md R190, R192; 60_exceptions.md R250, R253; 41_synchronizer.md R146; 45_encoder.md R240). -/
def Obligations.FieldCommandFaults : Prop :=
  ∀ (s : State) (arg : EnumArg) (t2 : Nat),
    let setter := fun (i : Instr) (w n : Nat) =>
      (OutOfRange arg w n → Raises i s .illegalOperand) ∧
      (¬OutOfRange arg w n → s.wvB = false → Raises i s .uninit)
    (s.cfg.variant = .sf → setter (.setmode arg) 8 5 ∧ setter (.setfpwr arg) 4 5 ∧ setter (.setfang arg) 4 6) ∧
    (s.cfg.variant = .df → setter (.setmode arg) 4 5 ∧ setter (.setfan arg) 4 6 ∧ setter (.setswing arg) 4 6) ∧
    (s.wvB = false →
      (∀ i ∈ [Instr.settemp t2, .gettemp, .getmode, .ckgen, .ckchk, .getck, .emit], Raises i s .uninit) ∧
      (s.cfg.variant = .sf → ∀ i ∈ [Instr.getfpwr, .getfang, .chklead], Raises i s .uninit) ∧
      (s.cfg.variant = .df → ∀ i ∈ [Instr.getfan, .getswing], Raises i s .uninit)) ∧
    (s.cfg.variant = .df → s.wvA = false → ∀ i ∈ [Instr.chklead, .emit], Raises i s .uninit)

/-! ### Checksum -/

/-- CKGEN on a valid frame: in the dual-frame variant byte 19 becomes the sum of the bytes 1 to 18 mod 256 and RES
shows it, in the single-frame variant only RES is cleared (44_checksum.md R230, R231). -/
def Obligations.CkgenWritesByteSum : Prop :=
  ∀ s : State, s.wvB = true →
    (s.cfg.variant = .df → ∃ t, exec .ckgen s = .next t ∧
      t = { s with wB := t.wB, res := BitVec.ofNat 32 (256 + byteSum s) } ∧
      dfByte t 19 = BitVec.ofNat 8 (byteSum s) ∧ ∀ j < 144, t.wB.getLsbD j = s.wB.getLsbD j) ∧
    (s.cfg.variant = .sf → exec .ckgen s = .next { s with res := 0 })

/-- CKCHK on a valid frame: in the dual-frame variant RES shows the sum where byte 19 is the sum, and the command faults
with CHECKSUM_MISMATCH where it is not; the single-frame checksum is not validated (44_checksum.md R232). -/
def Obligations.CkchkValidatesByteSum : Prop :=
  ∀ s : State, s.wvB = true →
    (s.cfg.variant = .df → (dfByte s 19).toNat = byteSum s →
      exec .ckchk s = .next { s with res := BitVec.ofNat 32 (256 + byteSum s) }) ∧
    (s.cfg.variant = .df → (dfByte s 19).toNat ≠ byteSum s → Raises .ckchk s .checksumMismatch) ∧
    (s.cfg.variant = .sf → exec .ckchk s = .next { s with res := 0 })

/-- GETCK on a valid frame writes RES alone: byte 19 in the dual-frame variant, the two reserved bytes, the second
above the first, in the single-frame variant (44_checksum.md R234). -/
def Obligations.GetckReadsChecksumField : Prop :=
  ∀ s : State, s.wvB = true →
    (s.cfg.variant = .df → exec .getck s = .next { s with res := BitVec.ofNat 32 (dfByte s 19).toNat }) ∧
    (s.cfg.variant = .sf → exec .getck s = .next { s with
      res := BitVec.ofNat 32 (256 * (s.wB.extractLsb' (8 * s.cfg.sf.ckByte1) 8).toNat +
        (s.wB.extractLsb' (8 * s.cfg.sf.ckByte0) 8).toNat) })

/-- Changing a covered byte from `a` to `b` changes the generated checksum by `b - a` mod 256, so it changes unless
`a = b`; two changes that sum to 0 mod 256 leave it (44_checksum.md R235). -/
def Obligations.ChecksumFollowsCoveredBytes : Prop :=
  ∀ (s : State) (k : Nat) (b : BitVec 8), s.cfg.variant = .df → s.wvB = true → 1 ≤ k → k ≤ 18 →
    ∃ t u v, exec (.setb 2 k b) s = .next t ∧ exec .ckgen s = .next u ∧ exec .ckgen t = .next v ∧
      dfByte v 19 = dfByte u 19 + (b - dfByte s k) ∧ (dfByte v 19 = dfByte u 19 ↔ b = dfByte s k) ∧
      ∀ (m : Nat) (c : BitVec 8), 1 ≤ m → m ≤ 18 → m ≠ k → (b - dfByte s k) + (c - dfByte s m) = 0 →
        ∃ t' v', exec (.setb 2 m c) t = .next t' ∧ exec .ckgen t' = .next v' ∧ dfByte v' 19 = dfByte u 19

/-- In a well-formed single-frame block the two checksum bytes are changed by no command but SETB and SETR, and by the
commands that load a whole frame, NEWF and POPCMD (44_checksum.md R233). -/
def Obligations.SingleFrameChecksumPassesThrough : Prop :=
  ∀ (s : State) (i : Instr), s.cfg.Ok → s.cfg.variant = .sf → i ≠ .newf → i ≠ .popcmd →
    (∀ f k v, i ≠ .setb f k v) → (∀ f start len data, i ≠ .setr f start len data) →
    ∃ t, exec i s = .next t ∧
      ∀ k ∈ [s.cfg.sf.ckByte0, s.cfg.sf.ckByte1], t.wB.extractLsb' (8 * k) 8 = s.wB.extractLsb' (8 * k) 8

/-! ### Encoder -/

/-- EMIT with the frames it needs valid appends one emission a frame, frame 1 first, and writes RES; nothing else
changes (45_encoder.md R240 to R242). -/
def Obligations.EmitAppendsFrames : Prop :=
  ∀ s : State,
    (s.cfg.variant = .sf → s.wvB = true → ∃ l, IsEmission s.cfg 152 s.wB.getLsbD l ∧
      exec .emit s = .next { s with tx := s.tx ++ l, res := 308 }) ∧
    (s.cfg.variant = .df → s.wvA = true → s.wvB = true → ∃ l m, IsEmission s.cfg 64 s.wA.getLsbD l ∧
      IsEmission s.cfg 152 s.wB.getLsbD m ∧ exec .emit s = .next { s with tx := s.tx ++ l ++ m, res := 440 })

/-- An emission played back as a capture records no fault and queues exactly one entry, which holds the emitted work
frames (45_encoder.md R244). -/
def Obligations.CaptureOfEmissionGivesFramesBack : Prop :=
  ∀ s : State, s.cfg.Ok → s.wvB = true → (s.cfg.variant = .df → s.wvA = true) →
    ∃ t l u, exec .emit s = .next t ∧ t.tx = s.tx ++ l ∧ execAll (captureOf l) t = .next u ∧
      u.fcode = .noFault ∧ u.oq = [s.workEntry]

/-! ### The whole machine -/

/-- The invariant holds right after reset, for the block of `State.reset` and for every well-formed choice of the open
parameters (10_state.md R48, R62). -/
def Obligations.InvariantHoldsAtReset : Prop :=
  State.reset.Inv ∧ ∀ c : Config, c.Ok → (State.resetOf c).Inv

/-- From every state that has the invariant the step answers a state that has it (10_state.md R44, R46 to R50, R52,
R53, R55). -/
def Obligations.StepKeepsInvariant : Prop :=
  ∀ s : State, s.Inv → ∃ t, step s = .next t ∧ t.Inv

/-- What "holds no defined value" cannot be seen: two states with the invariant that differ only there step to states
that differ only there, and their read ports agree at every address (10_state.md R46, R52, R58, R62). -/
def Obligations.UndefinedStateIsUnobservable : Prop :=
  ∀ s t : State, s.Inv → t.Inv → s.SameDefined t →
    ∃ s' t', step s = .next s' ∧ step t = .next t' ∧ s'.SameDefined t' ∧
      ∀ addr : BitVec 3, s'.readPort addr = t'.readPort addr

/-- Faults are precise: a command that records a fault leaves exactly the state before it, plus FCODE and FPOS and, for
an event, its count (60_exceptions.md R263). -/
def Obligations.FaultsArePrecise : Prop :=
  ∀ (s : State) (i : Instr), s.fcode = .noFault →
    ∃ t, exec i s = .next t ∧ (t.fcode ≠ .noFault →
      (isEvent i = true → t = { s with fcode := t.fcode, evcnt := s.evcnt + 1, fpos := s.evcnt + 1 }) ∧
      (isEvent i = false → t = { s with fcode := t.fcode, fpos := 0 }))

/-- A recorded fault is cleared by CAPSTART and by reset, which start with a clean synchronizer and an empty queue, and
is changed by nothing else (60_exceptions.md R264). -/
def Obligations.OnlyCapstartAndResetClearFault : Prop :=
  ∀ s : State, s.fcode ≠ .noFault → ∃ t, step s = .next t ∧
    (s.resetIn = true ∨ (∃ rest, decode s.port = .command .capstart rest) →
      t.fcode = .noFault ∧ t.fpos = 0 ∧ t.evcnt = 0 ∧ t.sync = .awaitHeader ∧ t.pend = false ∧ t.cntA = 0 ∧
        t.cntB = 0 ∧ t.doneA = false ∧ t.oq = []) ∧
    (s.resetIn = false → (¬∃ rest, decode s.port = .command .capstart rest) →
      t.fcode = s.fcode ∧ t.fpos = s.fpos)

/-- No step changes the block's constants or takes back a pair of the trace (10_state.md R41, R57;
70_reset_and_hazards.md R281, R282). -/
def Obligations.ConstantsStayAndTraceGrows : Prop :=
  ∀ s : State, ∃ t, step s = .next t ∧ t.cfg = s.cfg ∧ ∃ l, t.tx = s.tx ++ l

/-- The read port: STATUS assembles the state's fields, RES, FPOS, EVCNT and CONFIG read as they are, and the reserved
addresses read 0; FAULT_O equals STATUS.FLT (10_state.md R58 to R61). -/
def Obligations.ReadPortShowsRegisters : Prop :=
  ∀ s : State, s.Inv →
    (s.readPort 0).toNat =
      (if s.sync = .awaitHeader then 0 else if s.sync = .inFrame then 1 else 2) +
        4 * (if s.act = .a then 0 else 1) + 8 * s.pend.toNat +
        16 * (if s.pend = true ∧ s.pmark = .headerMark then 1 else 0) + 32 * s.doneA.toNat + 64 * s.wvA.toNat +
        128 * s.wvB.toNat + 256 * (if s.act = .a then s.cntA else s.cntB) + 65536 * s.oq.length +
        16777216 * s.fcode.code + 2147483648 * (if s.fcode = .noFault then 0 else 1) ∧
    s.readPort 1 = s.res ∧ s.readPort 2 = s.fpos ∧ s.readPort 3 = s.evcnt ∧
    (s.readPort 4).toNat =
      (if s.cfg.variant = .df then 1 else 0) + 16 * s.cfg.oqDepth + 256 * 152 +
        65536 * (if s.cfg.variant = .df then 64 else 0) ∧
    s.readPort 5 = 0 ∧ s.readPort 6 = 0 ∧ s.readPort 7 = 0 ∧ s.faultOut = (s.readPort 0).getLsbD 31

/-- The reset input gives every piece of state whose reset value the spec states that value, in one step, keeps the
trace, and abandons a SETR word without its data word, behind whatever words it waits; `State.reset` has the same values
and an empty trace (10_state.md R62; 70_reset_and_hazards.md R280). That reset is an input which a step reads first, and
that the whole commands on the port stay, is the model's reading of R280 (log 5); that an illegal SETR word counts as a
SETR word here is its reading of R93 (log 7). -/
def Obligations.ResetGivesStatedValues : Prop :=
  let fresh := fun (t : State) =>
    t.sync = .awaitHeader ∧ t.act = (if t.cfg.variant = .df then .a else .b) ∧ t.pend = false ∧ t.pmark = .mark ∧
      t.cntA = 0 ∧ t.cntB = 0 ∧ t.doneA = false ∧ t.oq = [] ∧ t.wvA = false ∧ t.wvB = false ∧ t.evcnt = 0 ∧
      t.fcode = .noFault ∧ t.fpos = 0 ∧ t.res = 0
  (∀ s : State, s.resetIn = true → ∃ t, step s = .next t ∧ fresh t ∧ t.tx = s.tx ∧ t.cfg = s.cfg ∧
      ∀ parts : List (List Word), (∀ p ∈ parts, WholeCommand p) →
        (s.port = parts.flatten → t.port = parts.flatten) ∧
        ∀ w : Word, w.toNat / 2 ^ 26 = 0x12 → s.port = parts.flatten ++ [w] → t.port = parts.flatten) ∧
    fresh State.reset ∧ State.reset.tx = []
end

