-- ==== Sys2Proof/Laws/Decode.lean ====
section
/-! SUPPORT. Laws of the encoder and the decoder: every field of an encoded word reads back, its reserved bits are
zero, and the opcode map is one to one. -/

namespace Sys2Proof

theorem Opcode.ofBits_bits (op : Opcode) : Opcode.ofBits op.bits = some op := by cases op <;> decide

/-- Bit `i` of a field placed in a word. -/
theorem fieldBits_getElem {n : Nat} (lo : Nat) (v : BitVec n) (i : Nat) (hi : i < 32) :
    (fieldBits lo v)[i] = (!decide (i < lo) && v.getLsbD (i - lo)) := by
  simp [fieldBits, BitVec.getElem_shiftLeft, BitVec.getElem_setWidth]

@[simp] theorem opField_wordN (op : Opcode) : opField (wordN op) = op.bits := by cases op <;> decide

theorem zeroMask_wordN (op : Opcode) (h : op.zeroMask = 0x03FFFFFF) : wordN op &&& op.zeroMask = 0 := by
  rw [h]; cases op <;> decide

@[simp] theorem opField_wordD (op : Opcode) (dur : Nat) : opField (wordD op dur) = op.bits := by
  refine BitVec.eq_of_getLsbD_eq fun i hi => ?_
  interval_cases i <;> simp [opField, wordD, fieldBits_getElem]

@[simp] theorem durField_wordD (op : Opcode) (dur : Nat) : durField (wordD op dur) = BitVec.ofNat 24 dur := by
  refine BitVec.eq_of_getLsbD_eq fun i hi => ?_
  have h : i < 26 := by omega
  have h' : i < 32 := by omega
  simp [durField, wordD, fieldBits_getElem, BitVec.getLsbD_eq_getElem, h, h', hi]

theorem zeroMask_wordD (op : Opcode) (dur : Nat) (h : op.zeroMask = 0x03000000) :
    wordD op dur &&& op.zeroMask = 0 := by
  rw [h]
  refine BitVec.eq_of_getLsbD_eq fun i hi => ?_
  interval_cases i <;> simp [wordD, fieldBits_getElem]

@[simp] theorem opField_wordA (op : Opcode) (f : BitVec 2) (idx len : Nat) (val : BitVec 8) :
    opField (wordA op f idx len val) = op.bits := by
  refine BitVec.eq_of_getLsbD_eq fun i hi => ?_
  interval_cases i <;> simp [opField, wordA, fieldBits_getElem]

@[simp] theorem fField_wordA (op : Opcode) (f : BitVec 2) (idx len : Nat) (val : BitVec 8) :
    fField (wordA op f idx len val) = f := by
  refine BitVec.eq_of_getLsbD_eq fun i hi => ?_
  interval_cases i <;> simp [fField, wordA, fieldBits_getElem]

@[simp] theorem idxField_wordA (op : Opcode) (f : BitVec 2) (idx len : Nat) (val : BitVec 8) :
    idxField (wordA op f idx len val) = BitVec.ofNat 8 idx := by
  refine BitVec.eq_of_getLsbD_eq fun i hi => ?_
  interval_cases i <;> simp [idxField, wordA, fieldBits_getElem]

@[simp] theorem lenField_wordA (op : Opcode) (f : BitVec 2) (idx len : Nat) (val : BitVec 8) :
    lenField (wordA op f idx len val) = BitVec.ofNat 6 len := by
  refine BitVec.eq_of_getLsbD_eq fun i hi => ?_
  interval_cases i <;> simp [lenField, wordA, fieldBits_getElem]

@[simp] theorem valField_wordA (op : Opcode) (f : BitVec 2) (idx len : Nat) (val : BitVec 8) :
    valField (wordA op f idx len val) = val := by
  refine BitVec.eq_of_getLsbD_eq fun i hi => ?_
  interval_cases i <;> simp [valField, wordA, fieldBits_getElem]

theorem wordA_and_reserved (op : Opcode) (f : BitVec 2) (idx len : Nat) :
    wordA op f idx len 0 &&& 0x0000C0FF = 0 := by
  refine BitVec.eq_of_getLsbD_eq fun i hi => ?_
  interval_cases i <;> simp [wordA, fieldBits_getElem]

theorem wordA_and_reserved_byte (op : Opcode) (f : BitVec 2) (idx : Nat) :
    wordA op f idx 0 0 &&& 0x0000FFFF = 0 := by
  refine BitVec.eq_of_getLsbD_eq fun i hi => ?_
  interval_cases i <;> simp [wordA, fieldBits_getElem]

theorem wordA_and_reserved_value (op : Opcode) (f : BitVec 2) (idx : Nat) (val : BitVec 8) :
    wordA op f idx 0 val &&& 0x0000FF00 = 0 := by
  refine BitVec.eq_of_getLsbD_eq fun i hi => ?_
  interval_cases i <;> simp [wordA, fieldBits_getElem]

@[simp] theorem opField_wordV (op : Opcode) (r : BitVec 1) (val : BitVec 8) : opField (wordV op r val) = op.bits := by
  refine BitVec.eq_of_getLsbD_eq fun i hi => ?_
  interval_cases i <;> simp [opField, wordV, fieldBits_getElem]

@[simp] theorem rField_wordV (op : Opcode) (r : BitVec 1) (val : BitVec 8) : rField (wordV op r val) = r := by
  refine BitVec.eq_of_getLsbD_eq fun i hi => ?_
  interval_cases i <;> simp [rField, wordV, fieldBits_getElem]

@[simp] theorem valField_wordV (op : Opcode) (r : BitVec 1) (val : BitVec 8) : valField (wordV op r val) = val := by
  refine BitVec.eq_of_getLsbD_eq fun i hi => ?_
  interval_cases i <;> simp [valField, wordV, fieldBits_getElem]

theorem wordV_and_reserved (op : Opcode) (r : BitVec 1) (val : BitVec 8) : wordV op r val &&& 0x01FFFF00 = 0 := by
  refine BitVec.eq_of_getLsbD_eq fun i hi => ?_
  interval_cases i <;> simp [wordV, fieldBits_getElem]

theorem wordV_zero_and_reserved (op : Opcode) (val : BitVec 8) : wordV op 0 val &&& 0x03FFFF00 = 0 := by
  refine BitVec.eq_of_getLsbD_eq fun i hi => ?_
  interval_cases i <;> simp [wordV, fieldBits_getElem]

@[simp] theorem opField_wordEnum (op : Opcode) (arg : EnumArg) : opField (wordEnum op arg) = op.bits := by
  cases arg <;> simp [wordEnum]

theorem zeroMask_wordEnum (op : Opcode) (arg : EnumArg) (h : op.zeroMask = 0x01FFFF00) :
    wordEnum op arg &&& op.zeroMask = 0 := by
  rw [h]; cases arg <;> exact wordV_and_reserved _ _ _

theorem enumField_wordEnum (op : Opcode) (arg : EnumArg) (h : arg.fits = true) :
    enumField (wordEnum op arg) = arg := by
  cases arg with
  | named index =>
    have h' : index < 256 := by simpa [EnumArg.fits, valFits] using h
    simp [wordEnum, enumField, h']
  | raw code => simp [wordEnum, enumField]

/-- A one-word command decodes as its opcode says. -/
theorem decode_one_word (op : Opcode) (w : Word) (rest : List Word) (hop : opField w = op.bits)
    (hne : op ≠ .setr) : decode (w :: rest) = decodeAs op w 0 rest := by
  cases op <;> first | exact absurd rfl hne | simp only [decode, hop, Opcode.ofBits_bits]

/-- A SETR word decodes with its data word. -/
theorem decode_setr (w data : Word) (rest : List Word) (hop : opField w = Opcode.setr.bits) :
    decode (w :: data :: rest) = decodeAs .setr w data rest := by
  simp only [decode, hop, Opcode.ofBits_bits]

/-- A word whose reserved bits are zero decodes to its command. -/
theorem decodeAs_command (op : Opcode) (w data : Word) (rest : List Word) (h : w &&& op.zeroMask = 0) :
    decodeAs op w data rest = .command (operandsOf op w data) rest := by
  simp [decodeAs, h]

end Sys2Proof
end

