-- ==== Sys2Proof/Laws/State.lean ====
section
/-! SUPPORT. The small lemmas of the state's updates: what each named update leaves in each field. -/

namespace Sys2Proof.Machine

variable (s : State)

/-! ### `setRes` -/

@[simp] theorem State.setRes_cfg (v : Word) : (s.setRes v).cfg = s.cfg := rfl

@[simp] theorem State.setRes_port (v : Word) : (s.setRes v).port = s.port := rfl

@[simp] theorem State.setRes_resetIn (v : Word) : (s.setRes v).resetIn = s.resetIn := rfl

@[simp] theorem State.setRes_sync (v : Word) : (s.setRes v).sync = s.sync := rfl

@[simp] theorem State.setRes_act (v : Word) : (s.setRes v).act = s.act := rfl

@[simp] theorem State.setRes_pend (v : Word) : (s.setRes v).pend = s.pend := rfl

@[simp] theorem State.setRes_pmark (v : Word) : (s.setRes v).pmark = s.pmark := rfl

@[simp] theorem State.setRes_abufA (v : Word) : (s.setRes v).abufA = s.abufA := rfl

@[simp] theorem State.setRes_abufB (v : Word) : (s.setRes v).abufB = s.abufB := rfl

@[simp] theorem State.setRes_cntA (v : Word) : (s.setRes v).cntA = s.cntA := rfl

@[simp] theorem State.setRes_cntB (v : Word) : (s.setRes v).cntB = s.cntB := rfl

@[simp] theorem State.setRes_doneA (v : Word) : (s.setRes v).doneA = s.doneA := rfl

@[simp] theorem State.setRes_oq (v : Word) : (s.setRes v).oq = s.oq := rfl

@[simp] theorem State.setRes_wA (v : Word) : (s.setRes v).wA = s.wA := rfl

@[simp] theorem State.setRes_wB (v : Word) : (s.setRes v).wB = s.wB := rfl

@[simp] theorem State.setRes_wvA (v : Word) : (s.setRes v).wvA = s.wvA := rfl

@[simp] theorem State.setRes_wvB (v : Word) : (s.setRes v).wvB = s.wvB := rfl

@[simp] theorem State.setRes_evcnt (v : Word) : (s.setRes v).evcnt = s.evcnt := rfl

@[simp] theorem State.setRes_fcode (v : Word) : (s.setRes v).fcode = s.fcode := rfl

@[simp] theorem State.setRes_fpos (v : Word) : (s.setRes v).fpos = s.fpos := rfl

@[simp] theorem State.setRes_res (v : Word) : (s.setRes v).res = v := rfl

@[simp] theorem State.setRes_tx (v : Word) : (s.setRes v).tx = s.tx := rfl

/-! ### `countEvent` -/

@[simp] theorem State.countEvent_cfg : (s.countEvent).cfg = s.cfg := rfl

@[simp] theorem State.countEvent_port : (s.countEvent).port = s.port := rfl

@[simp] theorem State.countEvent_resetIn : (s.countEvent).resetIn = s.resetIn := rfl

@[simp] theorem State.countEvent_sync : (s.countEvent).sync = s.sync := rfl

@[simp] theorem State.countEvent_act : (s.countEvent).act = s.act := rfl

@[simp] theorem State.countEvent_pend : (s.countEvent).pend = s.pend := rfl

@[simp] theorem State.countEvent_pmark : (s.countEvent).pmark = s.pmark := rfl

@[simp] theorem State.countEvent_abufA : (s.countEvent).abufA = s.abufA := rfl

@[simp] theorem State.countEvent_abufB : (s.countEvent).abufB = s.abufB := rfl

@[simp] theorem State.countEvent_cntA : (s.countEvent).cntA = s.cntA := rfl

@[simp] theorem State.countEvent_cntB : (s.countEvent).cntB = s.cntB := rfl

@[simp] theorem State.countEvent_doneA : (s.countEvent).doneA = s.doneA := rfl

@[simp] theorem State.countEvent_oq : (s.countEvent).oq = s.oq := rfl

@[simp] theorem State.countEvent_wA : (s.countEvent).wA = s.wA := rfl

@[simp] theorem State.countEvent_wB : (s.countEvent).wB = s.wB := rfl

@[simp] theorem State.countEvent_wvA : (s.countEvent).wvA = s.wvA := rfl

@[simp] theorem State.countEvent_wvB : (s.countEvent).wvB = s.wvB := rfl

@[simp] theorem State.countEvent_evcnt : (s.countEvent).evcnt = s.evcnt + 1 := rfl

@[simp] theorem State.countEvent_fcode : (s.countEvent).fcode = s.fcode := rfl

@[simp] theorem State.countEvent_fpos : (s.countEvent).fpos = s.fpos := rfl

@[simp] theorem State.countEvent_res : (s.countEvent).res = s.res := rfl

@[simp] theorem State.countEvent_tx : (s.countEvent).tx = s.tx := rfl

/-! ### `clearFault` -/

@[simp] theorem State.clearFault_cfg : (s.clearFault).cfg = s.cfg := rfl

@[simp] theorem State.clearFault_port : (s.clearFault).port = s.port := rfl

@[simp] theorem State.clearFault_resetIn : (s.clearFault).resetIn = s.resetIn := rfl

@[simp] theorem State.clearFault_sync : (s.clearFault).sync = s.sync := rfl

@[simp] theorem State.clearFault_act : (s.clearFault).act = s.act := rfl

@[simp] theorem State.clearFault_pend : (s.clearFault).pend = s.pend := rfl

@[simp] theorem State.clearFault_pmark : (s.clearFault).pmark = s.pmark := rfl

@[simp] theorem State.clearFault_abufA : (s.clearFault).abufA = s.abufA := rfl

@[simp] theorem State.clearFault_abufB : (s.clearFault).abufB = s.abufB := rfl

@[simp] theorem State.clearFault_cntA : (s.clearFault).cntA = s.cntA := rfl

@[simp] theorem State.clearFault_cntB : (s.clearFault).cntB = s.cntB := rfl

@[simp] theorem State.clearFault_doneA : (s.clearFault).doneA = s.doneA := rfl

@[simp] theorem State.clearFault_oq : (s.clearFault).oq = s.oq := rfl

@[simp] theorem State.clearFault_wA : (s.clearFault).wA = s.wA := rfl

@[simp] theorem State.clearFault_wB : (s.clearFault).wB = s.wB := rfl

@[simp] theorem State.clearFault_wvA : (s.clearFault).wvA = s.wvA := rfl

@[simp] theorem State.clearFault_wvB : (s.clearFault).wvB = s.wvB := rfl

@[simp] theorem State.clearFault_evcnt : (s.clearFault).evcnt = s.evcnt := rfl

@[simp] theorem State.clearFault_fcode : (s.clearFault).fcode = .noFault := rfl

@[simp] theorem State.clearFault_fpos : (s.clearFault).fpos = 0 := rfl

@[simp] theorem State.clearFault_res : (s.clearFault).res = s.res := rfl

@[simp] theorem State.clearFault_tx : (s.clearFault).tx = s.tx := rfl

/-! ### `withPort` -/

@[simp] theorem State.withPort_cfg (ws : List Word) : (s.withPort ws).cfg = s.cfg := rfl

@[simp] theorem State.withPort_port (ws : List Word) : (s.withPort ws).port = ws := rfl

@[simp] theorem State.withPort_resetIn (ws : List Word) : (s.withPort ws).resetIn = s.resetIn := rfl

@[simp] theorem State.withPort_sync (ws : List Word) : (s.withPort ws).sync = s.sync := rfl

@[simp] theorem State.withPort_act (ws : List Word) : (s.withPort ws).act = s.act := rfl

@[simp] theorem State.withPort_pend (ws : List Word) : (s.withPort ws).pend = s.pend := rfl

@[simp] theorem State.withPort_pmark (ws : List Word) : (s.withPort ws).pmark = s.pmark := rfl

@[simp] theorem State.withPort_abufA (ws : List Word) : (s.withPort ws).abufA = s.abufA := rfl

@[simp] theorem State.withPort_abufB (ws : List Word) : (s.withPort ws).abufB = s.abufB := rfl

@[simp] theorem State.withPort_cntA (ws : List Word) : (s.withPort ws).cntA = s.cntA := rfl

@[simp] theorem State.withPort_cntB (ws : List Word) : (s.withPort ws).cntB = s.cntB := rfl

@[simp] theorem State.withPort_doneA (ws : List Word) : (s.withPort ws).doneA = s.doneA := rfl

@[simp] theorem State.withPort_oq (ws : List Word) : (s.withPort ws).oq = s.oq := rfl

@[simp] theorem State.withPort_wA (ws : List Word) : (s.withPort ws).wA = s.wA := rfl

@[simp] theorem State.withPort_wB (ws : List Word) : (s.withPort ws).wB = s.wB := rfl

@[simp] theorem State.withPort_wvA (ws : List Word) : (s.withPort ws).wvA = s.wvA := rfl

@[simp] theorem State.withPort_wvB (ws : List Word) : (s.withPort ws).wvB = s.wvB := rfl

@[simp] theorem State.withPort_evcnt (ws : List Word) : (s.withPort ws).evcnt = s.evcnt := rfl

@[simp] theorem State.withPort_fcode (ws : List Word) : (s.withPort ws).fcode = s.fcode := rfl

@[simp] theorem State.withPort_fpos (ws : List Word) : (s.withPort ws).fpos = s.fpos := rfl

@[simp] theorem State.withPort_res (ws : List Word) : (s.withPort ws).res = s.res := rfl

@[simp] theorem State.withPort_tx (ws : List Word) : (s.withPort ws).tx = s.tx := rfl

/-! ### `deliver` -/

@[simp] theorem State.deliver_cfg (ws : List Word) : (s.deliver ws).cfg = s.cfg := rfl

@[simp] theorem State.deliver_port (ws : List Word) : (s.deliver ws).port = ws ++ s.port := rfl

@[simp] theorem State.deliver_resetIn (ws : List Word) : (s.deliver ws).resetIn = s.resetIn := rfl

@[simp] theorem State.deliver_sync (ws : List Word) : (s.deliver ws).sync = s.sync := rfl

@[simp] theorem State.deliver_act (ws : List Word) : (s.deliver ws).act = s.act := rfl

@[simp] theorem State.deliver_pend (ws : List Word) : (s.deliver ws).pend = s.pend := rfl

@[simp] theorem State.deliver_pmark (ws : List Word) : (s.deliver ws).pmark = s.pmark := rfl

@[simp] theorem State.deliver_abufA (ws : List Word) : (s.deliver ws).abufA = s.abufA := rfl

@[simp] theorem State.deliver_abufB (ws : List Word) : (s.deliver ws).abufB = s.abufB := rfl

@[simp] theorem State.deliver_cntA (ws : List Word) : (s.deliver ws).cntA = s.cntA := rfl

@[simp] theorem State.deliver_cntB (ws : List Word) : (s.deliver ws).cntB = s.cntB := rfl

@[simp] theorem State.deliver_doneA (ws : List Word) : (s.deliver ws).doneA = s.doneA := rfl

@[simp] theorem State.deliver_oq (ws : List Word) : (s.deliver ws).oq = s.oq := rfl

@[simp] theorem State.deliver_wA (ws : List Word) : (s.deliver ws).wA = s.wA := rfl

@[simp] theorem State.deliver_wB (ws : List Word) : (s.deliver ws).wB = s.wB := rfl

@[simp] theorem State.deliver_wvA (ws : List Word) : (s.deliver ws).wvA = s.wvA := rfl

@[simp] theorem State.deliver_wvB (ws : List Word) : (s.deliver ws).wvB = s.wvB := rfl

@[simp] theorem State.deliver_evcnt (ws : List Word) : (s.deliver ws).evcnt = s.evcnt := rfl

@[simp] theorem State.deliver_fcode (ws : List Word) : (s.deliver ws).fcode = s.fcode := rfl

@[simp] theorem State.deliver_fpos (ws : List Word) : (s.deliver ws).fpos = s.fpos := rfl

@[simp] theorem State.deliver_res (ws : List Word) : (s.deliver ws).res = s.res := rfl

@[simp] theorem State.deliver_tx (ws : List Word) : (s.deliver ws).tx = s.tx := rfl

/-! ### `emitPairs` -/

@[simp] theorem State.emitPairs_cfg (ps : List TxPair) : (s.emitPairs ps).cfg = s.cfg := rfl

@[simp] theorem State.emitPairs_port (ps : List TxPair) : (s.emitPairs ps).port = s.port := rfl

@[simp] theorem State.emitPairs_resetIn (ps : List TxPair) : (s.emitPairs ps).resetIn = s.resetIn := rfl

@[simp] theorem State.emitPairs_sync (ps : List TxPair) : (s.emitPairs ps).sync = s.sync := rfl

@[simp] theorem State.emitPairs_act (ps : List TxPair) : (s.emitPairs ps).act = s.act := rfl

@[simp] theorem State.emitPairs_pend (ps : List TxPair) : (s.emitPairs ps).pend = s.pend := rfl

@[simp] theorem State.emitPairs_pmark (ps : List TxPair) : (s.emitPairs ps).pmark = s.pmark := rfl

@[simp] theorem State.emitPairs_abufA (ps : List TxPair) : (s.emitPairs ps).abufA = s.abufA := rfl

@[simp] theorem State.emitPairs_abufB (ps : List TxPair) : (s.emitPairs ps).abufB = s.abufB := rfl

@[simp] theorem State.emitPairs_cntA (ps : List TxPair) : (s.emitPairs ps).cntA = s.cntA := rfl

@[simp] theorem State.emitPairs_cntB (ps : List TxPair) : (s.emitPairs ps).cntB = s.cntB := rfl

@[simp] theorem State.emitPairs_doneA (ps : List TxPair) : (s.emitPairs ps).doneA = s.doneA := rfl

@[simp] theorem State.emitPairs_oq (ps : List TxPair) : (s.emitPairs ps).oq = s.oq := rfl

@[simp] theorem State.emitPairs_wA (ps : List TxPair) : (s.emitPairs ps).wA = s.wA := rfl

@[simp] theorem State.emitPairs_wB (ps : List TxPair) : (s.emitPairs ps).wB = s.wB := rfl

@[simp] theorem State.emitPairs_wvA (ps : List TxPair) : (s.emitPairs ps).wvA = s.wvA := rfl

@[simp] theorem State.emitPairs_wvB (ps : List TxPair) : (s.emitPairs ps).wvB = s.wvB := rfl

@[simp] theorem State.emitPairs_evcnt (ps : List TxPair) : (s.emitPairs ps).evcnt = s.evcnt := rfl

@[simp] theorem State.emitPairs_fcode (ps : List TxPair) : (s.emitPairs ps).fcode = s.fcode := rfl

@[simp] theorem State.emitPairs_fpos (ps : List TxPair) : (s.emitPairs ps).fpos = s.fpos := rfl

@[simp] theorem State.emitPairs_res (ps : List TxPair) : (s.emitPairs ps).res = s.res := rfl

@[simp] theorem State.emitPairs_tx (ps : List TxPair) : (s.emitPairs ps).tx = s.tx ++ ps := rfl

/-! ### `restartSync` -/

@[simp] theorem State.restartSync_cfg : (s.restartSync).cfg = s.cfg := rfl

@[simp] theorem State.restartSync_port : (s.restartSync).port = s.port := rfl

@[simp] theorem State.restartSync_resetIn : (s.restartSync).resetIn = s.resetIn := rfl

@[simp] theorem State.restartSync_sync : (s.restartSync).sync = .awaitHeader := rfl

@[simp] theorem State.restartSync_act : (s.restartSync).act = firstSlot s.cfg.variant := rfl

@[simp] theorem State.restartSync_pend : (s.restartSync).pend = false := rfl

@[simp] theorem State.restartSync_pmark : (s.restartSync).pmark = .mark := rfl

@[simp] theorem State.restartSync_abufA : (s.restartSync).abufA = s.abufA := rfl

@[simp] theorem State.restartSync_abufB : (s.restartSync).abufB = s.abufB := rfl

@[simp] theorem State.restartSync_cntA : (s.restartSync).cntA = 0 := rfl

@[simp] theorem State.restartSync_cntB : (s.restartSync).cntB = 0 := rfl

@[simp] theorem State.restartSync_doneA : (s.restartSync).doneA = false := rfl

@[simp] theorem State.restartSync_oq : (s.restartSync).oq = s.oq := rfl

@[simp] theorem State.restartSync_wA : (s.restartSync).wA = s.wA := rfl

@[simp] theorem State.restartSync_wB : (s.restartSync).wB = s.wB := rfl

@[simp] theorem State.restartSync_wvA : (s.restartSync).wvA = s.wvA := rfl

@[simp] theorem State.restartSync_wvB : (s.restartSync).wvB = s.wvB := rfl

@[simp] theorem State.restartSync_evcnt : (s.restartSync).evcnt = s.evcnt := rfl

@[simp] theorem State.restartSync_fcode : (s.restartSync).fcode = s.fcode := rfl

@[simp] theorem State.restartSync_fpos : (s.restartSync).fpos = s.fpos := rfl

@[simp] theorem State.restartSync_res : (s.restartSync).res = s.res := rfl

@[simp] theorem State.restartSync_tx : (s.restartSync).tx = s.tx := rfl

/-! ### `raise` -/

@[simp] theorem State.raise_cfg (c : FaultCode) (e : Bool) : (s.raise c e).cfg = s.cfg := by
  unfold State.raise; split <;> rfl

@[simp] theorem State.raise_port (c : FaultCode) (e : Bool) : (s.raise c e).port = s.port := by
  unfold State.raise; split <;> rfl

@[simp] theorem State.raise_resetIn (c : FaultCode) (e : Bool) : (s.raise c e).resetIn = s.resetIn := by
  unfold State.raise; split <;> rfl

@[simp] theorem State.raise_sync (c : FaultCode) (e : Bool) : (s.raise c e).sync = s.sync := by
  unfold State.raise; split <;> rfl

@[simp] theorem State.raise_act (c : FaultCode) (e : Bool) : (s.raise c e).act = s.act := by
  unfold State.raise; split <;> rfl

@[simp] theorem State.raise_pend (c : FaultCode) (e : Bool) : (s.raise c e).pend = s.pend := by
  unfold State.raise; split <;> rfl

@[simp] theorem State.raise_pmark (c : FaultCode) (e : Bool) : (s.raise c e).pmark = s.pmark := by
  unfold State.raise; split <;> rfl

@[simp] theorem State.raise_abufA (c : FaultCode) (e : Bool) : (s.raise c e).abufA = s.abufA := by
  unfold State.raise; split <;> rfl

@[simp] theorem State.raise_abufB (c : FaultCode) (e : Bool) : (s.raise c e).abufB = s.abufB := by
  unfold State.raise; split <;> rfl

@[simp] theorem State.raise_cntA (c : FaultCode) (e : Bool) : (s.raise c e).cntA = s.cntA := by
  unfold State.raise; split <;> rfl

@[simp] theorem State.raise_cntB (c : FaultCode) (e : Bool) : (s.raise c e).cntB = s.cntB := by
  unfold State.raise; split <;> rfl

@[simp] theorem State.raise_doneA (c : FaultCode) (e : Bool) : (s.raise c e).doneA = s.doneA := by
  unfold State.raise; split <;> rfl

@[simp] theorem State.raise_oq (c : FaultCode) (e : Bool) : (s.raise c e).oq = s.oq := by
  unfold State.raise; split <;> rfl

@[simp] theorem State.raise_wA (c : FaultCode) (e : Bool) : (s.raise c e).wA = s.wA := by
  unfold State.raise; split <;> rfl

@[simp] theorem State.raise_wB (c : FaultCode) (e : Bool) : (s.raise c e).wB = s.wB := by
  unfold State.raise; split <;> rfl

@[simp] theorem State.raise_wvA (c : FaultCode) (e : Bool) : (s.raise c e).wvA = s.wvA := by
  unfold State.raise; split <;> rfl

@[simp] theorem State.raise_wvB (c : FaultCode) (e : Bool) : (s.raise c e).wvB = s.wvB := by
  unfold State.raise; split <;> rfl

@[simp] theorem State.raise_evcnt (c : FaultCode) (e : Bool) : (s.raise c e).evcnt = s.evcnt := by
  unfold State.raise; split <;> rfl

@[simp] theorem State.raise_res (c : FaultCode) (e : Bool) : (s.raise c e).res = s.res := by
  unfold State.raise; split <;> rfl

@[simp] theorem State.raise_tx (c : FaultCode) (e : Bool) : (s.raise c e).tx = s.tx := by
  unfold State.raise; split <;> rfl

theorem State.raise_of_noFault (c : FaultCode) (e : Bool) (h : s.fcode = .noFault) :
    s.raise c e = { s with fcode := c, fpos := if e then s.evcnt else 0 } := if_pos h

theorem State.raise_of_fault (c : FaultCode) (e : Bool) (h : s.fcode ≠ .noFault) : s.raise c e = s := if_neg h

/-! ### `writeBits` -/

@[simp] theorem State.writeBits_cfg {n : Nat} (x : Slot) (start : Nat) (v : BitVec n) :
    (s.writeBits x start v).cfg = s.cfg := by cases x <;> rfl

@[simp] theorem State.writeBits_port {n : Nat} (x : Slot) (start : Nat) (v : BitVec n) :
    (s.writeBits x start v).port = s.port := by cases x <;> rfl

@[simp] theorem State.writeBits_resetIn {n : Nat} (x : Slot) (start : Nat) (v : BitVec n) :
    (s.writeBits x start v).resetIn = s.resetIn := by cases x <;> rfl

@[simp] theorem State.writeBits_sync {n : Nat} (x : Slot) (start : Nat) (v : BitVec n) :
    (s.writeBits x start v).sync = s.sync := by cases x <;> rfl

@[simp] theorem State.writeBits_act {n : Nat} (x : Slot) (start : Nat) (v : BitVec n) :
    (s.writeBits x start v).act = s.act := by cases x <;> rfl

@[simp] theorem State.writeBits_pend {n : Nat} (x : Slot) (start : Nat) (v : BitVec n) :
    (s.writeBits x start v).pend = s.pend := by cases x <;> rfl

@[simp] theorem State.writeBits_pmark {n : Nat} (x : Slot) (start : Nat) (v : BitVec n) :
    (s.writeBits x start v).pmark = s.pmark := by cases x <;> rfl

@[simp] theorem State.writeBits_abufA {n : Nat} (x : Slot) (start : Nat) (v : BitVec n) :
    (s.writeBits x start v).abufA = s.abufA := by cases x <;> rfl

@[simp] theorem State.writeBits_abufB {n : Nat} (x : Slot) (start : Nat) (v : BitVec n) :
    (s.writeBits x start v).abufB = s.abufB := by cases x <;> rfl

@[simp] theorem State.writeBits_cntA {n : Nat} (x : Slot) (start : Nat) (v : BitVec n) :
    (s.writeBits x start v).cntA = s.cntA := by cases x <;> rfl

@[simp] theorem State.writeBits_cntB {n : Nat} (x : Slot) (start : Nat) (v : BitVec n) :
    (s.writeBits x start v).cntB = s.cntB := by cases x <;> rfl

@[simp] theorem State.writeBits_doneA {n : Nat} (x : Slot) (start : Nat) (v : BitVec n) :
    (s.writeBits x start v).doneA = s.doneA := by cases x <;> rfl

@[simp] theorem State.writeBits_oq {n : Nat} (x : Slot) (start : Nat) (v : BitVec n) :
    (s.writeBits x start v).oq = s.oq := by cases x <;> rfl

@[simp] theorem State.writeBits_wvA {n : Nat} (x : Slot) (start : Nat) (v : BitVec n) :
    (s.writeBits x start v).wvA = s.wvA := by cases x <;> rfl

@[simp] theorem State.writeBits_wvB {n : Nat} (x : Slot) (start : Nat) (v : BitVec n) :
    (s.writeBits x start v).wvB = s.wvB := by cases x <;> rfl

@[simp] theorem State.writeBits_evcnt {n : Nat} (x : Slot) (start : Nat) (v : BitVec n) :
    (s.writeBits x start v).evcnt = s.evcnt := by cases x <;> rfl

@[simp] theorem State.writeBits_fcode {n : Nat} (x : Slot) (start : Nat) (v : BitVec n) :
    (s.writeBits x start v).fcode = s.fcode := by cases x <;> rfl

@[simp] theorem State.writeBits_fpos {n : Nat} (x : Slot) (start : Nat) (v : BitVec n) :
    (s.writeBits x start v).fpos = s.fpos := by cases x <;> rfl

@[simp] theorem State.writeBits_res {n : Nat} (x : Slot) (start : Nat) (v : BitVec n) :
    (s.writeBits x start v).res = s.res := by cases x <;> rfl

@[simp] theorem State.writeBits_tx {n : Nat} (x : Slot) (start : Nat) (v : BitVec n) :
    (s.writeBits x start v).tx = s.tx := by cases x <;> rfl

@[simp] theorem State.writeBits_b_wA {n : Nat} (start : Nat) (v : BitVec n) :
    (s.writeBits .b start v).wA = s.wA := rfl

@[simp] theorem State.writeBits_b_wB {n : Nat} (start : Nat) (v : BitVec n) :
    (s.writeBits .b start v).wB = withSlice s.wB start v := rfl

@[simp] theorem State.writeBits_a_wA {n : Nat} (start : Nat) (v : BitVec n) :
    (s.writeBits .a start v).wA = withSlice s.wA start v := rfl

@[simp] theorem State.writeBits_a_wB {n : Nat} (start : Nat) (v : BitVec n) :
    (s.writeBits .a start v).wB = s.wB := rfl

/-! ### `appendBit` -/

@[simp] theorem State.appendBit_cfg (bit : Bool) : (s.appendBit bit).cfg = s.cfg := by
  unfold State.appendBit; split <;> rfl

@[simp] theorem State.appendBit_port (bit : Bool) : (s.appendBit bit).port = s.port := by
  unfold State.appendBit; split <;> rfl

@[simp] theorem State.appendBit_resetIn (bit : Bool) : (s.appendBit bit).resetIn = s.resetIn := by
  unfold State.appendBit; split <;> rfl

@[simp] theorem State.appendBit_sync (bit : Bool) : (s.appendBit bit).sync = s.sync := by
  unfold State.appendBit; split <;> rfl

@[simp] theorem State.appendBit_act (bit : Bool) : (s.appendBit bit).act = s.act := by
  unfold State.appendBit; split <;> rfl

@[simp] theorem State.appendBit_pend (bit : Bool) : (s.appendBit bit).pend = s.pend := by
  unfold State.appendBit; split <;> rfl

@[simp] theorem State.appendBit_pmark (bit : Bool) : (s.appendBit bit).pmark = s.pmark := by
  unfold State.appendBit; split <;> rfl

@[simp] theorem State.appendBit_doneA (bit : Bool) : (s.appendBit bit).doneA = s.doneA := by
  unfold State.appendBit; split <;> rfl

@[simp] theorem State.appendBit_oq (bit : Bool) : (s.appendBit bit).oq = s.oq := by
  unfold State.appendBit; split <;> rfl

@[simp] theorem State.appendBit_wA (bit : Bool) : (s.appendBit bit).wA = s.wA := by
  unfold State.appendBit; split <;> rfl

@[simp] theorem State.appendBit_wB (bit : Bool) : (s.appendBit bit).wB = s.wB := by
  unfold State.appendBit; split <;> rfl

@[simp] theorem State.appendBit_wvA (bit : Bool) : (s.appendBit bit).wvA = s.wvA := by
  unfold State.appendBit; split <;> rfl

@[simp] theorem State.appendBit_wvB (bit : Bool) : (s.appendBit bit).wvB = s.wvB := by
  unfold State.appendBit; split <;> rfl

@[simp] theorem State.appendBit_evcnt (bit : Bool) : (s.appendBit bit).evcnt = s.evcnt := by
  unfold State.appendBit; split <;> rfl

@[simp] theorem State.appendBit_fcode (bit : Bool) : (s.appendBit bit).fcode = s.fcode := by
  unfold State.appendBit; split <;> rfl

@[simp] theorem State.appendBit_fpos (bit : Bool) : (s.appendBit bit).fpos = s.fpos := by
  unfold State.appendBit; split <;> rfl

@[simp] theorem State.appendBit_res (bit : Bool) : (s.appendBit bit).res = s.res := by
  unfold State.appendBit; split <;> rfl

@[simp] theorem State.appendBit_tx (bit : Bool) : (s.appendBit bit).tx = s.tx := by
  unfold State.appendBit; split <;> rfl

/-! ### `takeReset` -/

@[simp] theorem State.takeReset_cfg : s.takeReset.cfg = s.cfg := rfl

@[simp] theorem State.takeReset_port : s.takeReset.port = abandonPartial s.port := rfl

@[simp] theorem State.takeReset_resetIn : s.takeReset.resetIn = false := rfl

@[simp] theorem State.takeReset_sync : s.takeReset.sync = .awaitHeader := rfl

@[simp] theorem State.takeReset_act : s.takeReset.act = firstSlot s.cfg.variant := rfl

@[simp] theorem State.takeReset_pend : s.takeReset.pend = false := rfl

@[simp] theorem State.takeReset_pmark : s.takeReset.pmark = .mark := rfl

@[simp] theorem State.takeReset_abufA : s.takeReset.abufA = 0 := rfl

@[simp] theorem State.takeReset_abufB : s.takeReset.abufB = 0 := rfl

@[simp] theorem State.takeReset_cntA : s.takeReset.cntA = 0 := rfl

@[simp] theorem State.takeReset_cntB : s.takeReset.cntB = 0 := rfl

@[simp] theorem State.takeReset_doneA : s.takeReset.doneA = false := rfl

@[simp] theorem State.takeReset_oq : s.takeReset.oq = [] := rfl

@[simp] theorem State.takeReset_wA : s.takeReset.wA = 0 := rfl

@[simp] theorem State.takeReset_wB : s.takeReset.wB = 0 := rfl

@[simp] theorem State.takeReset_wvA : s.takeReset.wvA = false := rfl

@[simp] theorem State.takeReset_wvB : s.takeReset.wvB = false := rfl

@[simp] theorem State.takeReset_evcnt : s.takeReset.evcnt = 0 := rfl

@[simp] theorem State.takeReset_fcode : s.takeReset.fcode = .noFault := rfl

@[simp] theorem State.takeReset_fpos : s.takeReset.fpos = 0 := rfl

@[simp] theorem State.takeReset_res : s.takeReset.res = 0 := rfl

@[simp] theorem State.takeReset_tx : s.takeReset.tx = s.tx := rfl

/-! ### `setByteB`, `setNibbleB`, `setBitB`: writes of W_B -/

@[simp] theorem State.setByteB_eq (k : Nat) (v : BitVec 8) :
    s.setByteB k v = s.writeBits .b (byteStart s.cfg.variant k) v := rfl

@[simp] theorem State.setNibbleB_eq (k j : Nat) (v : BitVec 4) :
    s.setNibbleB k j v = s.writeBits .b (nibbleStart s.cfg.variant k j) v := rfl

@[simp] theorem State.setBitB_eq (k i : Nat) (v : Bool) :
    s.setBitB k i v = s.writeBits .b (byteStart s.cfg.variant k + i) (BitVec.ofBool v) := rfl

/-! ### `loadEntry` -/

@[simp] theorem State.loadEntry_cfg (e : Entry) : (s.loadEntry e).cfg = s.cfg := by
  unfold State.loadEntry; split <;> rfl

@[simp] theorem State.loadEntry_port (e : Entry) : (s.loadEntry e).port = s.port := by
  unfold State.loadEntry; split <;> rfl

@[simp] theorem State.loadEntry_resetIn (e : Entry) : (s.loadEntry e).resetIn = s.resetIn := by
  unfold State.loadEntry; split <;> rfl

@[simp] theorem State.loadEntry_sync (e : Entry) : (s.loadEntry e).sync = s.sync := by
  unfold State.loadEntry; split <;> rfl

@[simp] theorem State.loadEntry_act (e : Entry) : (s.loadEntry e).act = s.act := by
  unfold State.loadEntry; split <;> rfl

@[simp] theorem State.loadEntry_pend (e : Entry) : (s.loadEntry e).pend = s.pend := by
  unfold State.loadEntry; split <;> rfl

@[simp] theorem State.loadEntry_pmark (e : Entry) : (s.loadEntry e).pmark = s.pmark := by
  unfold State.loadEntry; split <;> rfl

@[simp] theorem State.loadEntry_abufA (e : Entry) : (s.loadEntry e).abufA = s.abufA := by
  unfold State.loadEntry; split <;> rfl

@[simp] theorem State.loadEntry_abufB (e : Entry) : (s.loadEntry e).abufB = s.abufB := by
  unfold State.loadEntry; split <;> rfl

@[simp] theorem State.loadEntry_cntA (e : Entry) : (s.loadEntry e).cntA = s.cntA := by
  unfold State.loadEntry; split <;> rfl

@[simp] theorem State.loadEntry_cntB (e : Entry) : (s.loadEntry e).cntB = s.cntB := by
  unfold State.loadEntry; split <;> rfl

@[simp] theorem State.loadEntry_doneA (e : Entry) : (s.loadEntry e).doneA = s.doneA := by
  unfold State.loadEntry; split <;> rfl

@[simp] theorem State.loadEntry_oq (e : Entry) : (s.loadEntry e).oq = s.oq := by
  unfold State.loadEntry; split <;> rfl

@[simp] theorem State.loadEntry_evcnt (e : Entry) : (s.loadEntry e).evcnt = s.evcnt := by
  unfold State.loadEntry; split <;> rfl

@[simp] theorem State.loadEntry_fcode (e : Entry) : (s.loadEntry e).fcode = s.fcode := by
  unfold State.loadEntry; split <;> rfl

@[simp] theorem State.loadEntry_fpos (e : Entry) : (s.loadEntry e).fpos = s.fpos := by
  unfold State.loadEntry; split <;> rfl

@[simp] theorem State.loadEntry_res (e : Entry) : (s.loadEntry e).res = s.res := by
  unfold State.loadEntry; split <;> rfl

@[simp] theorem State.loadEntry_tx (e : Entry) : (s.loadEntry e).tx = s.tx := by
  unfold State.loadEntry; split <;> rfl

/-! ### `newFrames` -/

@[simp] theorem newFrames_cfg : (newFrames s).cfg = s.cfg := by unfold newFrames; split <;> rfl

@[simp] theorem newFrames_port : (newFrames s).port = s.port := by unfold newFrames; split <;> rfl

@[simp] theorem newFrames_resetIn : (newFrames s).resetIn = s.resetIn := by unfold newFrames; split <;> rfl

@[simp] theorem newFrames_sync : (newFrames s).sync = s.sync := by unfold newFrames; split <;> rfl

@[simp] theorem newFrames_act : (newFrames s).act = s.act := by unfold newFrames; split <;> rfl

@[simp] theorem newFrames_pend : (newFrames s).pend = s.pend := by unfold newFrames; split <;> rfl

@[simp] theorem newFrames_pmark : (newFrames s).pmark = s.pmark := by unfold newFrames; split <;> rfl

@[simp] theorem newFrames_abufA : (newFrames s).abufA = s.abufA := by unfold newFrames; split <;> rfl

@[simp] theorem newFrames_abufB : (newFrames s).abufB = s.abufB := by unfold newFrames; split <;> rfl

@[simp] theorem newFrames_cntA : (newFrames s).cntA = s.cntA := by unfold newFrames; split <;> rfl

@[simp] theorem newFrames_cntB : (newFrames s).cntB = s.cntB := by unfold newFrames; split <;> rfl

@[simp] theorem newFrames_doneA : (newFrames s).doneA = s.doneA := by unfold newFrames; split <;> rfl

@[simp] theorem newFrames_oq : (newFrames s).oq = s.oq := by unfold newFrames; split <;> rfl

@[simp] theorem newFrames_evcnt : (newFrames s).evcnt = s.evcnt := by unfold newFrames; split <;> rfl

@[simp] theorem newFrames_fcode : (newFrames s).fcode = s.fcode := by unfold newFrames; split <;> rfl

@[simp] theorem newFrames_fpos : (newFrames s).fpos = s.fpos := by unfold newFrames; split <;> rfl

@[simp] theorem newFrames_res : (newFrames s).res = s.res := by unfold newFrames; split <;> rfl

@[simp] theorem newFrames_tx : (newFrames s).tx = s.tx := by unfold newFrames; split <;> rfl

end Sys2Proof.Machine
end

