-- ==== Sys2Proof/Laws/Ops.lean ====
section
/-! SUPPORT. What each shared operation can do, once for each: the slices of a frame, the checks, the completion of
commands and events, the selectors, the assembler, the queue, the enumeration operands and the port at reset. -/

namespace Sys2Proof.Machine

/-! ### Slices of a frame -/

theorem sliceOf_getLsbD {l : Nat} (w : BitVec l) (start n i : Nat) :
    (sliceOf w start n).getLsbD i = (decide (i < n) && w.getLsbD (start + i)) := by
  simp [sliceOf, BitVec.getLsbD_extractLsb']

/-- A written slice: its bits are the value's, every other bit is kept. -/
theorem withSlice_getLsbD {l n : Nat} (w : BitVec l) (start : Nat) (v : BitVec n) (i : Nat) :
    (withSlice w start v).getLsbD i =
      if i < l ∧ start ≤ i ∧ i < start + n then v.getLsbD (i - start) else w.getLsbD i := by
  by_cases hl : i < l
  · by_cases hs : start ≤ i
    · by_cases hn : i < start + n
      · have h1 : i - start < n := by omega
        simp [withSlice, hl, hs, hn, h1, Nat.not_lt.mpr hs]
      · have h1 : ¬i - start < n := by omega
        have h2 := BitVec.getLsbD_of_ge v (i - start) (by omega)
        simp [withSlice, hl, hn, h1, h2]
    · have h1 : i < start := by omega
      simp [withSlice, hl, hs, h1]
  · have h := BitVec.getLsbD_of_ge (withSlice w start v) i (by omega)
    have h' := BitVec.getLsbD_of_ge w i (by omega)
    rw [h, h', if_neg (fun hc => hl hc.1)]

/-- A slice reads back as it was written. -/
theorem sliceOf_withSlice {l n : Nat} (w : BitVec l) (start : Nat) (v : BitVec n) (h : start + n ≤ l) :
    sliceOf (withSlice w start v) start n = v := by
  refine BitVec.eq_of_getLsbD_eq fun i hi => ?_
  have h1 : start + i < l ∧ start ≤ start + i ∧ start + i < start + n := by omega
  rw [sliceOf_getLsbD, withSlice_getLsbD, if_pos h1, Nat.add_sub_cancel_left, decide_eq_true hi, Bool.true_and]

/-- A write leaves every slice that it does not meet. -/
theorem sliceOf_withSlice_of_disjoint {l n m : Nat} (w : BitVec l) (start start' : Nat) (v : BitVec n)
    (h : start' + m ≤ start ∨ start + n ≤ start') :
    sliceOf (withSlice w start v) start' m = sliceOf w start' m := by
  refine BitVec.eq_of_getLsbD_eq fun i hi => ?_
  have h1 : ¬(start' + i < l ∧ start ≤ start' + i ∧ start' + i < start + n) := by omega
  simp only [sliceOf_getLsbD, withSlice_getLsbD, if_neg h1]

/-- The write of a slice that has its value already changes nothing. -/
theorem withSlice_sliceOf {l : Nat} (w : BitVec l) (start n : Nat) :
    withSlice w start (sliceOf w start n) = w := by
  refine BitVec.eq_of_getLsbD_eq fun i hi => ?_
  rw [withSlice_getLsbD]
  split
  · next h =>
    have h1 : i - start < n := by omega
    have h2 : start + (i - start) = i := by omega
    rw [sliceOf_getLsbD, h2, decide_eq_true h1, Bool.true_and]
  · rfl

/-! ### Checks and completion -/

theorem check_eq_ok_iff (ok : Bool) (c : FaultCode) (u : Unit) : check ok c = .ok u ↔ ok = true := by
  cases ok <;> simp [check]

theorem check_true (c : FaultCode) : check true c = .ok () := rfl

theorem check_false (c : FaultCode) : check false c = .error c := rfl

theorem orFault_eq_ok_iff {α : Type} (v : Option α) (c : FaultCode) (a : α) : orFault v c = .ok a ↔ v = some a := by
  cases v <;> simp [orFault]

@[simp] theorem State.settle_ok (s t : State) (e : Bool) : s.settle e (.ok t) = t := rfl

@[simp] theorem State.settle_error (s : State) (e : Bool) (c : FaultCode) : s.settle e (.error c) = s.raise c e := rfl

/-- A command completes with its writes, or leaves the state but for the fault record. -/
theorem State.settle_cases (s : State) (e : Bool) (r : Except FaultCode State) :
    (∃ t, r = .ok t ∧ s.settle e r = t) ∨ (∃ c, r = .error c ∧ s.settle e r = s.raise c e) := by
  cases r with
  | ok t => exact .inl ⟨t, rfl, rfl⟩
  | error c => exact .inr ⟨c, rfl, rfl⟩

/-- An event is discarded, takes effect, or faults with its count kept. -/
theorem State.event_cases (s : State) (f : State → Except FaultCode State) :
    (s.fcode ≠ .noFault ∧ s.event f = .next s) ∨
      (s.fcode = .noFault ∧ ∃ t, f s.countEvent = .ok t ∧ s.event f = .next t) ∨
      (s.fcode = .noFault ∧ ∃ c, f s.countEvent = .error c ∧ s.event f = .next (s.countEvent.raise c true)) := by
  by_cases h : s.fcode = .noFault
  · cases hr : f s.countEvent with
    | ok t => exact .inr (.inl ⟨h, t, rfl, by simp [State.event, h, hr]⟩)
    | error c => exact .inr (.inr ⟨h, c, rfl, by simp [State.event, h, hr]⟩)
  · exact .inl ⟨h, by simp [State.event, h]⟩

/-- A command that only answers writes RES, or leaves the state but for the fault record. -/
theorem State.answer_cases (s : State) (r : Except FaultCode Word) :
    (∃ v, r = .ok v ∧ s.answer r = .next (s.setRes v)) ∨
      (∃ c, r = .error c ∧ s.answer r = .next (s.raise c false)) := by
  cases r with
  | ok v => exact .inl ⟨v, rfl, rfl⟩
  | error c => exact .inr ⟨c, rfl, rfl⟩

/-! ### Selectors and bounds -/

/-- A frame is selected exactly where the variant has it and its valid bit is set. -/
theorem State.select_eq_ok_iff (s : State) (f : BitVec 2) (x : Slot) :
    s.select f = .ok x ↔ selectedSlot s.cfg.variant f = some x ∧ s.valid x = true := by
  unfold State.select
  cases h : selectedSlot s.cfg.variant f with
  | none => simp
  | some y =>
    by_cases hv : s.valid y = true
    · simp only [hv, if_true, Except.ok.injEq, Option.some.injEq]
      exact ⟨fun e => ⟨e, e ▸ hv⟩, fun e => e.1⟩
    · simp only [hv, Option.some.injEq]
      exact ⟨fun e => by simp at e, fun e => absurd (e.1 ▸ e.2) hv⟩

/-- A range access goes ahead exactly where every check of 42_bitframe.md R172 holds. -/
theorem State.rangeSlot_eq_ok_iff (s : State) (f : BitVec 2) (start len : Nat) (x : Slot) :
    s.rangeSlot f start len = .ok x ↔
      len ≤ 32 ∧ selectedSlot s.cfg.variant f = some x ∧ s.valid x = true ∧ start + len ≤ frameLen x := by
  unfold State.rangeSlot
  by_cases hl : len ≤ 32
  · cases hs : s.select f with
    | error c =>
      have hn : ¬(selectedSlot s.cfg.variant f = some x ∧ s.valid x = true) := fun h => by
        rw [(s.select_eq_ok_iff f x).mpr h] at hs; cases hs
      simp only [check, hl, decide_true, if_true, bind, Except.bind, true_and]
      exact ⟨fun h => (by cases h), fun h => (hn ⟨h.1, h.2.1⟩).elim⟩
    | ok y =>
      have hy := (s.select_eq_ok_iff f y).mp hs
      by_cases hr : start + len ≤ frameLen y
      · simp only [check, hl, hr, decide_true, if_true, bind, Except.bind, pure, Except.pure, true_and,
          Except.ok.injEq]
        exact ⟨fun e => by subst e; exact ⟨hy.1, hy.2, hr⟩, fun h => by
          have := hy.1.symm.trans h.1; exact Option.some.inj this⟩
      · simp only [check, hl, hr, decide_true, decide_false, if_true, bind, Except.bind, true_and]
        exact ⟨fun e => (by simp at e), fun h => by
          have := Option.some.inj (hy.1.symm.trans h.1); subst this; exact (hr h.2.2).elim⟩
  · simp [check, hl, bind, Except.bind]

/-- A byte access goes ahead exactly where every check of 42_bitframe.md R174 holds. -/
theorem State.byteSlot_eq_ok_iff (s : State) (f : BitVec 2) (k : Nat) (x : Slot) :
    s.byteSlot f k = .ok x ↔
      selectedSlot s.cfg.variant f = some x ∧ s.valid x = true ∧ isByteNumber s.cfg.variant x k = true := by
  unfold State.byteSlot
  cases hs : s.select f with
  | error c =>
    have hn : ¬(selectedSlot s.cfg.variant f = some x ∧ s.valid x = true) := fun h => by
      rw [(s.select_eq_ok_iff f x).mpr h] at hs; cases hs
    exact ⟨fun h => (by cases h), fun h => (hn ⟨h.1, h.2.1⟩).elim⟩
  | ok y =>
    have hy := (s.select_eq_ok_iff f y).mp hs
    by_cases hr : isByteNumber s.cfg.variant y k = true
    · simp only [check, hr, if_true, bind, Except.bind, pure, Except.pure, Except.ok.injEq]
      exact ⟨fun e => by subst e; exact ⟨hy.1, hy.2, hr⟩, fun h => Option.some.inj (hy.1.symm.trans h.1)⟩
    · simp only [check, hr, bind, Except.bind]
      exact ⟨fun e => (by simp at e), fun h => by
        have := Option.some.inj (hy.1.symm.trans h.1); subst this; exact (hr h.2.2).elim⟩

/-! ### Reads and writes of a work frame -/

/-- The bits of a range inside a frame read back as they were written. -/
theorem State.readBits_writeBits {n : Nat} (s : State) (x : Slot) (start : Nat) (v : BitVec n)
    (h : start + n ≤ frameLen x) : (s.writeBits x start v).readBits x start n = v := by
  cases x <;> exact sliceOf_withSlice _ _ _ h

/-- A write leaves the other frame. -/
theorem State.readBits_writeBits_of_ne {n m : Nat} (s : State) (x y : Slot) (start start' : Nat) (v : BitVec n)
    (h : x ≠ y) : (s.writeBits x start v).readBits y start' m = s.readBits y start' m := by
  cases x <;> cases y <;> first | exact absurd rfl h | rfl

/-- A write leaves the ranges of its frame that it does not meet. -/
theorem State.readBits_writeBits_of_disjoint {n m : Nat} (s : State) (x : Slot) (start start' : Nat)
    (v : BitVec n) (h : start' + m ≤ start ∨ start + n ≤ start') :
    (s.writeBits x start v).readBits x start' m = s.readBits x start' m := by
  cases x <;> exact sliceOf_withSlice_of_disjoint _ _ _ _ h

/-! ### The assembler and the queue -/

theorem State.closeActive_of_zero (s : State) (h : s.activeCount = 0) : s.closeActive = .ok .empty := if_pos h

theorem State.closeActive_of_full (s : State) (h : s.activeCount = frameLen s.act) : s.closeActive = .ok .full := by
  have h0 : s.activeCount ≠ 0 := by rw [h]; cases s.act <;> decide
  simp only [State.closeActive, if_neg h0, if_pos h]

theorem State.closeActive_of_partial (s : State) (h0 : s.activeCount ≠ 0) (h : s.activeCount ≠ frameLen s.act) :
    s.closeActive = .error .frameLength := by
  simp only [State.closeActive, if_neg h0, if_neg h]

/-- What `CloseActive` can answer. -/
theorem State.closeActive_cases (s : State) :
    (s.activeCount = 0 ∧ s.closeActive = .ok .empty) ∨
      (s.activeCount = frameLen s.act ∧ s.closeActive = .ok .full) ∨
      (s.activeCount ≠ 0 ∧ s.activeCount ≠ frameLen s.act ∧ s.closeActive = .error .frameLength) := by
  by_cases h0 : s.activeCount = 0
  · exact .inl ⟨h0, s.closeActive_of_zero h0⟩
  · by_cases h : s.activeCount = frameLen s.act
    · exact .inr (.inl ⟨h, s.closeActive_of_full h⟩)
    · exact .inr (.inr ⟨h0, h, s.closeActive_of_partial h0 h⟩)

/-- What `Push` can answer: a full queue faults, and otherwise the entry is the last one. -/
theorem State.push_cases (s : State) (e : Entry) :
    (s.oq.length = s.cfg.oqDepth ∧ s.push e = .error .queueOverflow) ∨
      (s.oq.length ≠ s.cfg.oqDepth ∧ s.push e = .ok { s with oq := s.oq ++ [e] }) := by
  by_cases h : s.oq.length = s.cfg.oqDepth
  · exact .inl ⟨h, if_pos h⟩
  · exact .inr ⟨h, if_neg h⟩

/-! ### Enumeration operands -/

/-- When a setter's operand gives a pattern, and which. -/
theorem resolveEnum_eq_ok_iff {w n : Nat} (arg : EnumArg) (pat : Vector (BitVec w) n) (p : BitVec w) :
    resolveEnum arg pat = .ok p ↔
      (∃ index, ∃ h : index < n, arg = .named index ∧ pat[index] = p) ∨
        (∃ code, arg = .raw code ∧ code.toNat < 2 ^ w ∧ code.setWidth w = p) := by
  cases arg with
  | named index =>
    by_cases h : index < n
    · simp [resolveEnum, h]
    · simp [resolveEnum, h]
  | raw code =>
    by_cases h : code.toNat < 2 ^ w
    · simp [resolveEnum, h]
    · simp [resolveEnum, h]

/-- A setter's operand faults with ILLEGAL_OPERAND only. -/
theorem resolveEnum_error {w n : Nat} (arg : EnumArg) (pat : Vector (BitVec w) n) (c : FaultCode)
    (h : resolveEnum arg pat = .error c) : c = .illegalOperand := by
  cases arg <;> simp only [resolveEnum] at h <;> split at h <;> simp_all

/-! ### What the reset input leaves on the port -/

@[simp] theorem abandonPartial_nil : abandonPartial [] = [] := rfl

/-- A SETR word without its data word is abandoned. -/
theorem abandonPartial_lone_setr {w : Word} (h : opField w = Opcode.setr.bits) : abandonPartial [w] = [] := by
  simp [abandonPartial, h]

/-- A SETR word with its data word stays. -/
theorem abandonPartial_setr {w : Word} (data : Word) (rest : List Word) (h : opField w = Opcode.setr.bits) :
    abandonPartial (w :: data :: rest) = w :: data :: abandonPartial rest := by
  simp [abandonPartial, h]

/-- Any other word stays. -/
theorem abandonPartial_other {w : Word} (rest : List Word) (h : opField w ≠ Opcode.setr.bits) :
    abandonPartial (w :: rest) = w :: abandonPartial rest := by
  cases rest <;> simp [abandonPartial, h]

/-- What the reset input leaves has no SETR word without its data word: a second reset leaves it as it is. -/
theorem abandonPartial_idem (ws : List Word) : abandonPartial (abandonPartial ws) = abandonPartial ws := by
  induction ws using abandonPartial.induct with
  | case1 => rfl
  | case2 w h => simp [abandonPartial_lone_setr h]
  | case3 w h => simp [abandonPartial_other _ h]
  | case4 w next rest h ih => rw [abandonPartial_setr _ _ h, abandonPartial_setr _ _ h, ih]
  | case5 w next rest h ih => rw [abandonPartial_other _ h, abandonPartial_other _ h, ih]

end Sys2Proof.Machine
end

