-- ==== Sys2Proof/Laws/Exec.lean ====
section
/-! SUPPORT. What a command can do, said once: a command that is no event takes one of six shapes or records a
command fault; an event is discarded, takes effect, or records a capture fault. -/

namespace Sys2Proof.Machine

/-! ### The faults of the shared operations: command faults and capture faults (60_exceptions.md R250) -/

/-- Every fault that a computation can end in is of the given kind. -/
def FaultsOf {α : Type} (capture : Bool) (r : Except FaultCode α) : Prop :=
  ∀ c, r = .error c → c.isCapture = capture

theorem faultsOf_ok {α : Type} (k : Bool) (a : α) : FaultsOf k (.ok a) := fun _ h => nomatch h

theorem faultsOf_error {α : Type} (k : Bool) (c : FaultCode) (h : c.isCapture = k) :
    FaultsOf k (.error c : Except FaultCode α) := fun _ e => by cases e; exact h

theorem faultsOf_bind {α β : Type} {k : Bool} {r : Except FaultCode α} {f : α → Except FaultCode β}
    (h : FaultsOf k r) (hf : ∀ a, FaultsOf k (f a)) : FaultsOf k (r >>= f) := fun c hc => by
  cases r with
  | ok a => exact hf a c hc
  | error d => cases hc; exact h _ rfl

theorem faultsOf_map {α β : Type} {k : Bool} {r : Except FaultCode α} (f : α → β) (h : FaultsOf k r) :
    FaultsOf k (r.map f) := fun c hc => by
  cases r with
  | ok a => cases hc
  | error d => cases hc; exact h _ rfl

theorem faultsOf_check {k : Bool} (ok : Bool) (c : FaultCode) (h : c.isCapture = k) : FaultsOf k (check ok c) := by
  cases ok
  · exact faultsOf_error _ _ h
  · exact faultsOf_ok _ _

theorem faultsOf_orFault {α : Type} {k : Bool} (v : Option α) (c : FaultCode) (h : c.isCapture = k) :
    FaultsOf k (orFault v c) := by
  cases v
  · exact faultsOf_error _ _ h
  · exact faultsOf_ok _ _

theorem State.select_faults (s : State) (f : BitVec 2) : FaultsOf false (s.select f) := by
  unfold State.select
  split
  · exact faultsOf_error _ _ rfl
  · split
    · exact faultsOf_ok _ _
    · exact faultsOf_error _ _ rfl

theorem State.rangeSlot_faults (s : State) (f : BitVec 2) (start len : Nat) :
    FaultsOf false (s.rangeSlot f start len) :=
  faultsOf_bind (faultsOf_check _ _ rfl) fun _ => faultsOf_bind (s.select_faults _) fun _ =>
    faultsOf_bind (faultsOf_check _ _ rfl) fun _ => faultsOf_ok _ _

theorem State.byteSlot_faults (s : State) (f : BitVec 2) (k : Nat) : FaultsOf false (s.byteSlot f k) :=
  faultsOf_bind (s.select_faults _) fun _ => faultsOf_bind (faultsOf_check _ _ rfl) fun _ => faultsOf_ok _ _

theorem resolveEnum_faults {w n : Nat} (arg : EnumArg) (pat : Vector (BitVec w) n) :
    FaultsOf false (resolveEnum arg pat) := fun c h => by rw [resolveEnum_error _ _ _ h]; rfl

theorem State.putNibble_faults {n : Nat} (s : State) (v : Variant) (arg : EnumArg) (pat : Vector (BitVec 4) n)
    (k j : Nat) : FaultsOf false (s.putNibble v arg pat k j) :=
  faultsOf_bind (faultsOf_check _ _ rfl) fun _ => faultsOf_bind (resolveEnum_faults _ _) fun _ =>
    faultsOf_bind (faultsOf_check _ _ rfl) fun _ => faultsOf_ok _ _

theorem State.getNibble_faults {n : Nat} (s : State) (v : Variant) (pat : Vector (BitVec 4) n) (k j : Nat) :
    FaultsOf false (s.getNibble v pat k j) :=
  faultsOf_bind (faultsOf_check _ _ rfl) fun _ => faultsOf_bind (faultsOf_check _ _ rfl) fun _ => faultsOf_ok _ _

theorem State.closeActive_faults (s : State) : FaultsOf true s.closeActive := by
  rcases s.closeActive_cases with ⟨_, h⟩ | ⟨_, h⟩ | ⟨_, _, h⟩ <;> rw [h]
  · exact faultsOf_ok _ _
  · exact faultsOf_ok _ _
  · exact faultsOf_error _ _ rfl

theorem State.push_faults (s : State) (e : Entry) : FaultsOf true (s.push e) := by
  rcases s.push_cases e with ⟨_, h⟩ | ⟨_, h⟩ <;> rw [h]
  · exact faultsOf_error _ _ rfl
  · exact faultsOf_ok _ _

theorem symbolEffect_faults (sym : PairSymbol) (s : State) : FaultsOf true (symbolEffect sym s) := by
  cases sym with
  | header => exact faultsOf_ok _ _
  | bit v =>
    exact faultsOf_bind (faultsOf_check _ _ rfl) fun _ => faultsOf_bind (faultsOf_check _ _ rfl) fun _ => faultsOf_ok _ _
  | separator =>
    simp only [symbolEffect]
    split
    · refine faultsOf_bind s.closeActive_faults fun a => ?_
      cases a
      · exact faultsOf_ok _ _
      · exact faultsOf_bind (s.push_faults _) fun _ => faultsOf_ok _ _
    · refine faultsOf_bind s.closeActive_faults fun a => ?_
      cases a <;> cases s.act <;>
        first | exact faultsOf_ok _ _ | exact faultsOf_bind (s.push_faults _) fun _ => faultsOf_ok _ _

/-! ### What a command can do -/

/-- The six shapes of a command's effect. -/
inductive EffectKind where
  /-- PULSE, SPACE, TIMEOUT (10_state.md R53). -/
  | event
  /-- Writes RES alone (20_memory.md R81). -/
  | answer
  /-- Writes a work frame in part, and RES (10_state.md R51). -/
  | frameWrite
  /-- NEWF. -/
  | newFrames
  /-- POPCMD. -/
  | popEntry
  /-- CAPSTART. -/
  | captureStart
  /-- EMIT. -/
  | emission
  deriving DecidableEq, Repr

/-- The shape of each command's effect. -/
def effectKind : Instr → EffectKind
  | .pulse _ | .space _ | .timeout => .event
  | .nop | .chklead | .clsm _ | .clss _ | .getr _ _ _ | .getb _ _ | .gettemp | .getmode | .getfpwr | .getfang
  | .getfan | .getswing | .ckchk | .getck => .answer
  | .setr _ _ _ _ | .setb _ _ _ | .settemp _ | .setmode _ | .setfpwr _ | .setfang _ | .setfan _ | .setswing _
  | .ckgen => .frameWrite
  | .newf => .newFrames
  | .popcmd => .popEntry
  | .capstart => .captureStart
  | .emit => .emission

/-- The states that a command which is no event can leave when it records no fault. -/
def EffectKind.Leaves (k : EffectKind) (s t : State) : Prop :=
  match k with
  | .event => False
  | .answer => ∃ v, t = s.setRes v
  | .frameWrite => ∃ wA wB v, t = { s with wA := wA, wB := wB, res := v }
  | .newFrames => t = (Machine.newFrames s).setRes 0
  | .popEntry => t = popEffect s
  | .captureStart => t = { s.clearFault.restartSync with evcnt := 0, oq := [] }.setRes 0
  | .emission => ∃ pairs v, t = (s.emitPairs pairs).setRes v

/-- What a computed effect can lead to: its state, or a recorded command fault. -/
def Settles (k : EffectKind) (s : State) (r : Except FaultCode State) : Prop :=
  FaultsOf false r ∧ ∀ t, r = .ok t → k.Leaves s t

theorem settles_answer (s : State) {r : Except FaultCode Word} (h : FaultsOf false r) :
    Settles .answer s (r.map s.setRes) := by
  refine ⟨faultsOf_map _ h, fun t ht => ?_⟩
  cases r with
  | ok v => cases ht; exact ⟨v, rfl⟩
  | error c => cases ht

theorem State.writeBits_eq_with {n : Nat} (s : State) (x : Slot) (start : Nat) (v : BitVec n) :
    ∃ wA wB, s.writeBits x start v = { s with wA := wA, wB := wB } := by cases x <;> exact ⟨_, _, rfl⟩

theorem settles_write {n : Nat} (s : State) {r : Except FaultCode Slot} (start : Nat) (v : BitVec n)
    (h : FaultsOf false r) : Settles .frameWrite s (r.map fun x => (s.writeBits x start v).setRes 0) := by
  refine ⟨faultsOf_map _ h, fun t ht => ?_⟩
  cases r with
  | ok x =>
    cases ht
    obtain ⟨wA, wB, hw⟩ := s.writeBits_eq_with x start v
    exact ⟨wA, wB, 0, by show (s.writeBits x start v).setRes 0 = _; rw [hw]; rfl⟩
  | error c => cases ht

theorem settles_putNibble {n : Nat} (s : State) (v : Variant) (arg : EnumArg) (pat : Vector (BitVec 4) n) (k j : Nat) :
    Settles .frameWrite s (s.putNibble v arg pat k j) := by
  refine ⟨s.putNibble_faults v arg pat k j, fun t ht => ?_⟩
  simp only [State.putNibble, bind, Except.bind, pure, Except.pure] at ht
  (repeat' split at ht) <;> try (cases ht; done)
  cases ht
  exact ⟨_, _, _, rfl⟩

theorem settles_settemp (t2 : Nat) (s : State) :
    Settles .frameWrite s (do
      s.needFrame .b
      let c := clamp t2
      return (s.storeTemp c).setRes (tempResult c.limit (halfOf c) c.t2c)) := by
  refine ⟨faultsOf_bind (faultsOf_check _ _ rfl) fun _ => faultsOf_ok _ _, fun t ht => ?_⟩
  simp only [bind, Except.bind, pure, Except.pure] at ht
  split at ht <;> cases ht
  exact ⟨_, _, _, rfl⟩

theorem settles_setModeSF (arg : EnumArg) (s : State) : Settles .frameWrite s (setModeSF arg s) := by
  refine ⟨faultsOf_bind (resolveEnum_faults _ _) fun _ => faultsOf_bind (faultsOf_check _ _ rfl) fun _ =>
    faultsOf_ok _ _, fun t ht => ?_⟩
  simp only [setModeSF, bind, Except.bind, pure, Except.pure] at ht
  (repeat' split at ht) <;> cases ht
  exact ⟨_, _, _, rfl⟩

theorem settles_setModeDF (arg : EnumArg) (s : State) : Settles .frameWrite s (setModeDF arg s) := by
  refine ⟨faultsOf_bind (resolveEnum_faults _ _) fun _ => faultsOf_bind (faultsOf_check _ _ rfl) fun _ =>
    faultsOf_ok _ _, fun t ht => ?_⟩
  simp only [setModeDF, bind, Except.bind, pure, Except.pure] at ht
  (repeat' split at ht) <;> cases ht
  cases miscOf s.cfg arg <;> exact ⟨_, _, _, rfl⟩

/-- Every command that is no event completes with an effect of its shape, or records a command fault. -/
theorem exec_command_settles (i : Instr) (s : State) (h : effectKind i ≠ .event) :
    ∃ r, exec i s = s.complete r ∧ Settles (effectKind i) s r := by
  cases i with
  | pulse d => exact absurd rfl h
  | space d => exact absurd rfl h
  | timeout => exact absurd rfl h
  | nop => exact ⟨_, rfl, settles_answer s (faultsOf_ok _ _)⟩
  | capstart => exact ⟨_, rfl, faultsOf_ok _ _, fun t ht => by cases ht; rfl⟩
  | popcmd => exact ⟨_, rfl, faultsOf_ok _ _, fun t ht => by cases ht; rfl⟩
  | chklead =>
    refine ⟨_, rfl, settles_answer s (faultsOf_map _ ?_)⟩
    unfold leadMatches
    split <;> exact faultsOf_bind (faultsOf_check _ _ rfl) fun _ => faultsOf_ok _ _
  | clsm d => exact ⟨_, rfl, settles_answer s (faultsOf_ok _ _)⟩
  | clss d => exact ⟨_, rfl, settles_answer s (faultsOf_ok _ _)⟩
  | newf => exact ⟨_, rfl, faultsOf_ok _ _, fun t ht => by cases ht; rfl⟩
  | getr f start len => exact ⟨_, rfl, settles_answer s (faultsOf_map _ (s.rangeSlot_faults _ _ _))⟩
  | setr f start len data => exact ⟨_, rfl, settles_write s start _ (s.rangeSlot_faults _ _ _)⟩
  | getb f k => exact ⟨_, rfl, settles_answer s (faultsOf_map _ (s.byteSlot_faults _ _))⟩
  | setb f k v => exact ⟨_, rfl, settles_write s _ v (s.byteSlot_faults _ _)⟩
  | settemp t2 => exact ⟨_, rfl, settles_settemp t2 s⟩
  | gettemp =>
    exact ⟨_, rfl, settles_answer s (faultsOf_bind (faultsOf_check _ _ rfl) fun _ => faultsOf_ok _ _)⟩
  | setmode arg =>
    refine ⟨_, rfl, ?_⟩
    split
    · exact settles_setModeSF arg s
    · exact settles_setModeDF arg s
  | getmode =>
    exact ⟨_, rfl, settles_answer s (faultsOf_bind (faultsOf_check _ _ rfl) fun _ => faultsOf_ok _ _)⟩
  | setfpwr arg => exact ⟨_, rfl, settles_putNibble _ _ _ _ _ _⟩
  | getfpwr => exact ⟨_, rfl, settles_answer s (s.getNibble_faults _ _ _ _)⟩
  | setfang arg => exact ⟨_, rfl, settles_putNibble _ _ _ _ _ _⟩
  | getfang => exact ⟨_, rfl, settles_answer s (s.getNibble_faults _ _ _ _)⟩
  | setfan arg => exact ⟨_, rfl, settles_putNibble _ _ _ _ _ _⟩
  | getfan => exact ⟨_, rfl, settles_answer s (s.getNibble_faults _ _ _ _)⟩
  | setswing arg => exact ⟨_, rfl, settles_putNibble _ _ _ _ _ _⟩
  | getswing => exact ⟨_, rfl, settles_answer s (s.getNibble_faults _ _ _ _)⟩
  | ckgen =>
    refine ⟨_, rfl, faultsOf_bind (faultsOf_check _ _ rfl) fun _ => ?_, fun t ht => ?_⟩
    · split <;> exact faultsOf_ok _ _
    · simp only [bind, Except.bind, pure, Except.pure] at ht
      (repeat' split at ht) <;> cases ht
      · exact ⟨s.wA, s.wB, _, rfl⟩
      · exact ⟨_, _, _, rfl⟩
  | ckchk =>
    refine ⟨_, rfl, settles_answer s (faultsOf_bind (faultsOf_check _ _ rfl) fun _ => ?_)⟩
    split
    · exact faultsOf_ok _ _
    · exact faultsOf_bind (faultsOf_check _ _ rfl) fun _ => faultsOf_ok _ _
  | getck =>
    refine ⟨_, rfl, settles_answer s (faultsOf_bind (faultsOf_check _ _ rfl) fun _ => ?_)⟩
    split <;> exact faultsOf_ok _ _
  | emit =>
    refine ⟨_, rfl, ?_, fun t ht => ?_⟩
    · split
      · exact faultsOf_bind (faultsOf_check _ _ rfl) fun _ => faultsOf_ok _ _
      · exact faultsOf_bind (faultsOf_check _ _ rfl) fun _ => faultsOf_bind (faultsOf_check _ _ rfl) fun _ =>
          faultsOf_ok _ _
    · simp only [bind, Except.bind, pure, Except.pure] at ht
      (repeat' split at ht) <;> cases ht <;> exact ⟨_, _, rfl⟩

/-- The same, by cases: the state of the command's shape, or the state with a command fault recorded. -/
theorem exec_command_cases (i : Instr) (s : State) (h : effectKind i ≠ .event) :
    (∃ t, exec i s = .next t ∧ (effectKind i).Leaves s t) ∨
      (∃ c, c.isCapture = false ∧ exec i s = .next (s.raise c false)) := by
  obtain ⟨r, he, hf, hl⟩ := exec_command_settles i s h
  cases r with
  | ok t => exact .inl ⟨t, he, hl t rfl⟩
  | error c => exact .inr ⟨c, hf c rfl, he⟩

/-! ### What an event can do -/

/-- The effect of an event command that is counted. -/
def eventEffect : Instr → State → Except FaultCode State
  | .pulse dur => pulseEffect dur
  | .space dur => spaceEffect dur
  | _ => timeoutEffect

theorem exec_event (i : Instr) (s : State) (h : effectKind i = .event) : exec i s = s.event (eventEffect i) := by
  cases i <;> first | rfl | cases h

/-- An event's fault is a capture fault. -/
theorem eventEffect_faults (i : Instr) (s : State) : FaultsOf true (eventEffect i s) := by
  have ht : FaultsOf true (timeoutEffect s) :=
    faultsOf_bind s.closeActive_faults fun r => faultsOf_bind
      (by unfold State.pushIf; split
          · exact faultsOf_ok _ _
          · exact s.push_faults _) fun _ => faultsOf_ok _ _
  cases i <;> try exact ht
  · exact faultsOf_bind (faultsOf_check _ _ rfl) fun _ => faultsOf_bind (faultsOf_orFault _ _ rfl) fun _ =>
      faultsOf_ok _ _
  · exact faultsOf_bind (faultsOf_check _ _ rfl) fun _ => faultsOf_bind (faultsOf_orFault _ _ rfl) fun _ =>
      faultsOf_bind (faultsOf_orFault _ _ rfl) fun _ => faultsOf_bind (symbolEffect_faults _ _) fun _ =>
        faultsOf_ok _ _

/-- What an event's effect keeps: everything but the synchronizer, the queue and RES. -/
def KeepsOutside (s t : State) : Prop :=
  t = { s with
    sync := t.sync, act := t.act, pend := t.pend, pmark := t.pmark, abufA := t.abufA, abufB := t.abufB,
    cntA := t.cntA, cntB := t.cntB, doneA := t.doneA, oq := t.oq, res := t.res }

theorem State.push_eq {s t : State} {e : Entry} (h : s.push e = .ok t) :
    s.oq.length ≠ s.cfg.oqDepth ∧ t = { s with oq := s.oq ++ [e] } := by
  rcases s.push_cases e with ⟨_, h'⟩ | ⟨hr, h'⟩ <;> rw [h'] at h <;> cases h
  exact ⟨hr, rfl⟩

theorem symbolEffect_keeps {sym : PairSymbol} {s t : State} (h : symbolEffect sym s = .ok t) : KeepsOutside s t := by
  cases sym with
  | header => cases h; rfl
  | bit v =>
    simp only [symbolEffect, bitEffect, bind, Except.bind, pure, Except.pure] at h
    (repeat' split at h) <;> cases h
    unfold State.appendBit
    split <;> rfl
  | separator =>
    simp only [symbolEffect] at h
    split at h
    · simp only [separatorEffectSF, bind, Except.bind, pure, Except.pure] at h
      (repeat' split at h) <;> cases h
      · rfl
      · next hp => rw [(State.push_eq hp).2]; rfl
    · simp only [separatorEffectDF, bind, Except.bind, pure, Except.pure] at h
      (repeat' split at h) <;> cases h
      · rfl
      · rfl
      · next hp => rw [(State.push_eq hp).2]; rfl

theorem eventEffect_keeps {i : Instr} {s t : State} (h : eventEffect i s = .ok t) : KeepsOutside s t := by
  have ht : timeoutEffect s = .ok t → KeepsOutside s t := fun h => by
    simp only [timeoutEffect, bind, Except.bind, pure, Except.pure] at h
    split at h
    · cases h
    split at h
    · cases h
    next hp =>
      cases h
      unfold State.pushIf at hp
      split at hp
      · cases hp; rfl
      · rw [(State.push_eq hp).2]; rfl
  cases i <;> try exact ht h
  · simp only [eventEffect, pulseEffect, bind, Except.bind, pure, Except.pure] at h
    (repeat' split at h) <;> cases h
    rfl
  · simp only [eventEffect, spaceEffect, bind, Except.bind, pure, Except.pure] at h
    (repeat' split at h) <;> cases h
    next hs =>
      have hk := symbolEffect_keeps hs
      unfold KeepsOutside at hk ⊢
      rw [hk]
      rfl

/-- An event is discarded while a fault is recorded; else it takes effect, or records a capture fault with its
ordinal. -/
theorem exec_event_cases (i : Instr) (s : State) (h : effectKind i = .event) :
    (s.fcode ≠ .noFault ∧ exec i s = .next s) ∨
      (s.fcode = .noFault ∧
        ∃ t, eventEffect i s.countEvent = .ok t ∧ exec i s = .next t ∧ KeepsOutside s.countEvent t) ∨
      (s.fcode = .noFault ∧ ∃ c, c.isCapture = true ∧ eventEffect i s.countEvent = .error c ∧
        exec i s = .next { s with evcnt := s.evcnt + 1, fcode := c, fpos := s.evcnt + 1 }) := by
  rw [exec_event i s h]
  rcases s.event_cases (eventEffect i) with ⟨hf, he⟩ | ⟨hf, t, ht, he⟩ | ⟨hf, c, hc, he⟩
  · exact .inl ⟨hf, he⟩
  · exact .inr (.inl ⟨hf, t, ht, he, eventEffect_keeps ht⟩)
  · refine .inr (.inr ⟨hf, c, eventEffect_faults i _ c hc, hc, ?_⟩)
    rw [he]
    unfold State.raise
    rw [if_pos (show s.countEvent.fcode = .noFault from hf)]
    rfl

end Sys2Proof.Machine
end

