-- ==== Sys2Proof/Laws/PerInstr.lean ====
section
/-! SUPPORT. Statements about every command, one lemma a constructor: RoundTrip says that decoding the encoded
command gives the command back, whatever words follow it. -/

namespace Sys2Proof.Laws.RoundTrip

/-- Decoding the words of a well-formed command gives that command, and leaves the words after it. -/
def Statement (i : Instr) : Prop :=
  i.wellFormed = true → ∀ rest : List Word, decode (encode i ++ rest) = .command i rest

/-- Commands of format N. -/
theorem of_format_n (i : Instr) (op : Opcode) (he : encode i = [wordN op]) (hne : op ≠ .setr)
    (hz : op.zeroMask = 0x03FFFFFF) (ho : operandsOf op (wordN op) 0 = i) : Statement i := by
  intro _ rest
  rw [he, List.singleton_append, decode_one_word op _ _ (opField_wordN op) hne,
    decodeAs_command _ _ _ _ (zeroMask_wordN op hz), ho]

/-- Commands of format D. -/
theorem of_format_d (i : Instr) (op : Opcode) (dur : Nat) (he : encode i = [wordD op dur]) (hne : op ≠ .setr)
    (hz : op.zeroMask = 0x03000000) (ho : dur < 2 ^ 24 → operandsOf op (wordD op dur) 0 = i)
    (hw : i.wellFormed = durFits dur) : Statement i := by
  intro hwf rest
  have hd : dur < 2 ^ 24 := by simpa [hw, durFits] using hwf
  rw [he, List.singleton_append, decode_one_word op _ _ (opField_wordD op dur) hne,
    decodeAs_command _ _ _ _ (zeroMask_wordD op dur hz), ho hd]

/-- Enumeration setters. -/
theorem of_setter (i : Instr) (op : Opcode) (arg : EnumArg) (he : encode i = [wordEnum op arg]) (hne : op ≠ .setr)
    (hz : op.zeroMask = 0x01FFFF00) (hw : i.wellFormed = arg.fits)
    (ho : enumField (wordEnum op arg) = arg → operandsOf op (wordEnum op arg) 0 = i) : Statement i := by
  intro hwf rest
  rw [he, List.singleton_append, decode_one_word op _ _ (opField_wordEnum op arg) hne,
    decodeAs_command _ _ _ _ (zeroMask_wordEnum op arg hz), ho (enumField_wordEnum op arg (hw ▸ hwf))]

theorem nop : Statement .nop := of_format_n _ .nop rfl (by decide) rfl rfl

theorem capstart : Statement .capstart := of_format_n _ .capstart rfl (by decide) rfl rfl

theorem pulse (dur : Nat) : Statement (.pulse dur) :=
  of_format_d _ .pulse dur rfl (by decide) rfl (fun h => by simpa [operandsOf] using h) rfl

theorem space (dur : Nat) : Statement (.space dur) :=
  of_format_d _ .space dur rfl (by decide) rfl (fun h => by simpa [operandsOf] using h) rfl

theorem timeout : Statement .timeout := of_format_n _ .timeout rfl (by decide) rfl rfl

theorem popcmd : Statement .popcmd := of_format_n _ .popcmd rfl (by decide) rfl rfl

theorem chklead : Statement .chklead := of_format_n _ .chklead rfl (by decide) rfl rfl

theorem clsm (dur : Nat) : Statement (.clsm dur) :=
  of_format_d _ .clsm dur rfl (by decide) rfl (fun h => by simpa [operandsOf] using h) rfl

theorem clss (dur : Nat) : Statement (.clss dur) :=
  of_format_d _ .clss dur rfl (by decide) rfl (fun h => by simpa [operandsOf] using h) rfl

theorem newf : Statement .newf := of_format_n _ .newf rfl (by decide) rfl rfl

theorem getr (f : BitVec 2) (start len : Nat) : Statement (.getr f start len) := by
  intro hwf rest
  obtain ⟨hs, hl⟩ : start < 2 ^ 8 ∧ len < 2 ^ 6 := by simpa [Instr.wellFormed, idxFits, lenFits] using hwf
  show decode (wordA .getr f start len 0 :: rest) = _
  rw [decode_one_word .getr _ _ (opField_wordA _ _ _ _ _) (by decide),
    decodeAs_command _ _ _ _ (wordA_and_reserved _ _ _ _)]
  simpa [operandsOf] using ⟨hs, hl⟩

theorem setr (f : BitVec 2) (start len : Nat) (data : Word) : Statement (.setr f start len data) := by
  intro hwf rest
  obtain ⟨hs, hl⟩ : start < 2 ^ 8 ∧ len < 2 ^ 6 := by simpa [Instr.wellFormed, idxFits, lenFits] using hwf
  show decode (wordA .setr f start len 0 :: data :: rest) = _
  rw [decode_setr _ _ _ (opField_wordA _ _ _ _ _), decodeAs_command _ _ _ _ (wordA_and_reserved _ _ _ _)]
  simpa [operandsOf] using ⟨hs, hl⟩

theorem getb (f : BitVec 2) (k : Nat) : Statement (.getb f k) := by
  intro hwf rest
  have hk : k < 2 ^ 8 := by simpa [Instr.wellFormed, idxFits] using hwf
  show decode (wordA .getb f k 0 0 :: rest) = _
  rw [decode_one_word .getb _ _ (opField_wordA _ _ _ _ _) (by decide),
    decodeAs_command _ _ _ _ (wordA_and_reserved_byte _ _ _)]
  simpa [operandsOf] using hk

theorem setb (f : BitVec 2) (k : Nat) (v : BitVec 8) : Statement (.setb f k v) := by
  intro hwf rest
  have hk : k < 2 ^ 8 := by simpa [Instr.wellFormed, idxFits] using hwf
  show decode (wordA .setb f k 0 v :: rest) = _
  rw [decode_one_word .setb _ _ (opField_wordA _ _ _ _ _) (by decide),
    decodeAs_command _ _ _ _ (wordA_and_reserved_value _ _ _ _)]
  simpa [operandsOf] using hk

theorem settemp (t2 : Nat) : Statement (.settemp t2) := by
  intro hwf rest
  have ht : t2 < 2 ^ 8 := by simpa [Instr.wellFormed, valFits] using hwf
  show decode (wordV .settemp 0 (BitVec.ofNat 8 t2) :: rest) = _
  rw [decode_one_word .settemp _ _ (opField_wordV _ _ _) (by decide),
    decodeAs_command _ _ _ _ (wordV_zero_and_reserved _ _)]
  simpa [operandsOf] using ht

theorem gettemp : Statement .gettemp := of_format_n _ .gettemp rfl (by decide) rfl rfl

theorem setmode (arg : EnumArg) : Statement (.setmode arg) :=
  of_setter _ .setmode arg rfl (by decide) rfl rfl (fun h => by simp [operandsOf, h])

theorem getmode : Statement .getmode := of_format_n _ .getmode rfl (by decide) rfl rfl

theorem setfpwr (arg : EnumArg) : Statement (.setfpwr arg) :=
  of_setter _ .setfpwr arg rfl (by decide) rfl rfl (fun h => by simp [operandsOf, h])

theorem getfpwr : Statement .getfpwr := of_format_n _ .getfpwr rfl (by decide) rfl rfl

theorem setfang (arg : EnumArg) : Statement (.setfang arg) :=
  of_setter _ .setfang arg rfl (by decide) rfl rfl (fun h => by simp [operandsOf, h])

theorem getfang : Statement .getfang := of_format_n _ .getfang rfl (by decide) rfl rfl

theorem setfan (arg : EnumArg) : Statement (.setfan arg) :=
  of_setter _ .setfan arg rfl (by decide) rfl rfl (fun h => by simp [operandsOf, h])

theorem getfan : Statement .getfan := of_format_n _ .getfan rfl (by decide) rfl rfl

theorem setswing (arg : EnumArg) : Statement (.setswing arg) :=
  of_setter _ .setswing arg rfl (by decide) rfl rfl (fun h => by simp [operandsOf, h])

theorem getswing : Statement .getswing := of_format_n _ .getswing rfl (by decide) rfl rfl

theorem ckgen : Statement .ckgen := of_format_n _ .ckgen rfl (by decide) rfl rfl

theorem ckchk : Statement .ckchk := of_format_n _ .ckchk rfl (by decide) rfl rfl

theorem getck : Statement .getck := of_format_n _ .getck rfl (by decide) rfl rfl

theorem emit : Statement .emit := of_format_n _ .emit rfl (by decide) rfl rfl

end Sys2Proof.Laws.RoundTrip
end

