-- ==== Sys2Proof/Tests/Slice0.lean ====
section
/-! SUPPORT. Tests: ill-formed operands are refused, words of every family decode to their command, and one step of
each command gives what the spec's vectors (95_test_vectors.md) say under the test configuration TC, and each
statement's hypotheses are met by a concrete state, clause by clause. -/

namespace Sys2Proof.Tests

open Sys2Proof.Machine

/-! ### Well-formedness: an ill-formed term for each check -/

theorem test_ill_formed_duration : (Instr.pulse (2 ^ 24)).wellFormed = false := by decide

theorem test_ill_formed_index : (Instr.getb 0 256).wellFormed = false := by decide

theorem test_ill_formed_length : (Instr.getr 0 0 64).wellFormed = false := by decide

theorem test_ill_formed_value : (Instr.settemp 256).wellFormed = false := by decide

theorem test_ill_formed_named_value : (Instr.setmode (.named 256)).wellFormed = false := by decide

theorem test_config_single_frame_ok : Config.testSF.Ok := by decide

theorem test_config_dual_frame_ok : Config.testDF.Ok := by decide

/-! ### Decoding: words written out from 30_encoding.md R91 and R95, bit 31 first -/

theorem test_decode_nop : decode [0b000000_00000000000000000000000000#32] = .command .nop [] := by decide

theorem test_decode_capstart : decode [0b000001_00000000000000000000000000#32] = .command .capstart [] := by decide

theorem test_decode_pulse : decode [0b000010_00_000000000000000111010001#32] = .command (.pulse 465) [] := by decide

theorem test_decode_space : decode [0b000011_00_000000000000010011111011#32] = .command (.space 1275) [] := by decide

theorem test_decode_timeout : decode [0b000100_00000000000000000000000000#32] = .command .timeout [] := by decide

theorem test_decode_popcmd : decode [0b000101_00000000000000000000000000#32] = .command .popcmd [] := by decide

theorem test_decode_chklead : decode [0b000110_00000000000000000000000000#32] = .command .chklead [] := by decide

theorem test_decode_clsm : decode [0b001000_00_000000000000000111010001#32] = .command (.clsm 465) [] := by decide

theorem test_decode_clss : decode [0b001001_00_000000000000010011111011#32] = .command (.clss 1275) [] := by decide

theorem test_decode_newf : decode [0b010000_00000000000000000000000000#32] = .command .newf [] := by decide

theorem test_decode_getr :
    decode [0b010001_10_10010000_00_001000_00000000#32] = .command (.getr 2 144 8) [] := by decide

theorem test_decode_setr :
    decode [0b010010_00_00101000_00_001000_00000000#32, 0x41#32] = .command (.setr 0 40 8 0x41) [] := by decide

theorem test_decode_getb : decode [0b010011_10_00010011_00_000000_00000000#32] = .command (.getb 2 19) [] := by decide

theorem test_decode_setb :
    decode [0b010100_00_00000011_00_000000_01011010#32] = .command (.setb 0 3 0x5A) [] := by decide

theorem test_decode_settemp :
    decode [0b100000_0_00000000000000000_00101101#32] = .command (.settemp 45) [] := by decide

theorem test_decode_gettemp : decode [0b100001_00000000000000000000000000#32] = .command .gettemp [] := by decide

theorem test_decode_setmode_named :
    decode [0b100010_0_00000000000000000_00000011#32] = .command (.setmode (.named 3)) [] := by decide

theorem test_decode_setmode_raw :
    decode [0b100010_1_00000000000000000_01000001#32] = .command (.setmode (.raw 0x41)) [] := by decide

theorem test_decode_getmode : decode [0b100011_00000000000000000000000000#32] = .command .getmode [] := by decide

theorem test_decode_setfpwr :
    decode [0b100100_0_00000000000000000_00000010#32] = .command (.setfpwr (.named 2)) [] := by decide

theorem test_decode_getfpwr : decode [0b100101_00000000000000000000000000#32] = .command .getfpwr [] := by decide

theorem test_decode_setfang :
    decode [0b100110_0_00000000000000000_00000011#32] = .command (.setfang (.named 3)) [] := by decide

theorem test_decode_getfang : decode [0b100111_00000000000000000000000000#32] = .command .getfang [] := by decide

theorem test_decode_setfan :
    decode [0b101000_0_00000000000000000_00000011#32] = .command (.setfan (.named 3)) [] := by decide

theorem test_decode_getfan : decode [0b101001_00000000000000000000000000#32] = .command .getfan [] := by decide

theorem test_decode_setswing :
    decode [0b101010_1_00000000000000000_00001111#32] = .command (.setswing (.raw 0x0F)) [] := by decide

theorem test_decode_getswing : decode [0b101011_00000000000000000000000000#32] = .command .getswing [] := by decide

theorem test_decode_ckgen : decode [0b110000_00000000000000000000000000#32] = .command .ckgen [] := by decide

theorem test_decode_ckchk : decode [0b110001_00000000000000000000000000#32] = .command .ckchk [] := by decide

theorem test_decode_getck : decode [0b110010_00000000000000000000000000#32] = .command .getck [] := by decide

theorem test_decode_emit : decode [0b111000_00000000000000000000000000#32] = .command .emit [] := by decide

/-- 95_test_vectors.md §9: OP 0x07 is reserved. -/
theorem test_decode_reserved_opcode : decode [0x1C000000#32, 0#32] = .illegal .reservedOpcode [0#32] := by decide

/-- 95_test_vectors.md §9: PULSE with word[24] set. -/
theorem test_decode_reserved_bit : decode [0x090001D1#32] = .illegal .nonzeroReserved [] := by decide

/-- 30_encoding.md R93: SETR waits for its data word. -/
theorem test_decode_setr_waits : decode [0x48280800#32] = .waiting := by decide

theorem test_table_word_setr : decodeTableWord 64 0x4148280800 = some (.setr 0 40 8 0x41) := by decide

/-! ### Single steps under TC -/

/-- A single-frame block right after reset. -/
def sf : State := State.resetOf Config.testSF

/-- A dual-frame block right after reset. -/
def df : State := State.resetOf Config.testDF

/-- A single-frame block whose work frame holds the bytes, byte 0 first. -/
def sfWith (bytes : List Nat) : State := { sf with wB := frameOfBytes 152 bytes, wvB := true }

/-- A dual-frame block whose work frames hold the template and the bytes, byte 1 first. -/
def dfWith (bytes : List Nat) : State :=
  { df with wA := Config.testDF.dfTemplateA, wvA := true, wB := frameOfBytes 152 bytes, wvB := true }

/-- What a test reads of the state after a command: RES, FCODE and FPOS. -/
def shown (i : Instr) (s : State) : Option (Word × FaultCode × Word) :=
  match exec i s with
  | .next t => some (t.res, t.fcode, t.fpos)
  | _ => none

/-- Byte `k` of W_B after a command, by the dual-frame numbers from 1 or the single-frame numbers from 0. -/
def byteAfter (i : Instr) (s : State) (k : Nat) : Option (BitVec 8) :=
  match exec i s with
  | .next t => some (t.byteB k)
  | _ => none

/-- STATUS after a command. -/
def statusAfter (i : Instr) (s : State) : Option Word :=
  match exec i s with
  | .next t => some t.status
  | _ => none

/-- §1: STATUS and CONFIG after reset. -/
theorem test_reset_registers :
    sf.status = 0x4#32 ∧ df.status = 0#32 ∧ configRegister sf.cfg = 0x00009840#32 ∧
      configRegister df.cfg = 0x00409841#32 := by decide

theorem test_nop : shown .nop { sf with res := 7 } = some (0, .noFault, 0) := by decide

/-- R132: a faulted capture is cleared and the valid bits are kept. -/
theorem test_capstart_clears_fault :
    statusAfter .capstart { dfWith [] with fcode := .ambiguous, fpos := 1, evcnt := 1 } = some 0xC0#32 := by decide

/-- §4: `PULSE 3550` on a fresh dual-frame block. -/
theorem test_pulse_header_mark : statusAfter (.pulse 3550) df = some 0x18#32 := by decide

/-- S17. -/
theorem test_pulse_ambiguous : shown (.pulse 3750) df = some (0, .ambiguous, 1) := by decide

/-- S1: a bit outside a frame. -/
theorem test_space_bit_outside_frame :
    shown (.space 417) { sf with pend := true, evcnt := 1 } = some (0, .bitOutsideFrame, 2) := by decide

/-- S9: the last separator of a frame pushes it. -/
theorem test_space_separator_pushes :
    statusAfter (.space 9935) { sf with sync := .inFrame, pend := true, cntB := 152 } = some 0x00010006#32 := by
  decide

/-- S24: frame 1 alone is flushed. -/
theorem test_timeout_flushes_frame_one :
    statusAfter .timeout { df with sync := .inFrame, cntA := 64 } = some 0x00010000#32 := by decide

/-- S13: a partial frame. -/
theorem test_timeout_frame_length :
    shown .timeout { sf with sync := .inFrame, cntB := 20, evcnt := 42, res := 3 } = some (3, .frameLength, 43) := by
  decide

/-- §4: an entry with frame 1 only. -/
theorem test_popcmd_frame_one :
    statusAfter .popcmd { df with oq := [⟨some 5, none⟩], wvB := true } = some 0x40#32 := by decide

theorem test_popcmd_result : shown .popcmd { sf with oq := [⟨none, some 5⟩] } = some (5, .noFault, 0) := by decide

theorem test_chklead_matches : shown .chklead (sfWith [0xA1, 0xB2, 0xC3, 0xD4, 0xE5, 9]) = some (1, .noFault, 0) := by
  decide

theorem test_chklead_differs : shown .chklead (sfWith [0, 0xB2, 0xC3, 0xD4, 0xE5]) = some (0, .noFault, 0) := by decide

/-- V6 and V5. -/
theorem test_clsm_nearest : shown (.clsm 1983) sf = some (1, .noFault, 0) ∧ shown (.clsm 1982) df = some (7, .noFault, 0) := by
  decide

/-- V17: the exact tie goes to the smaller reference. -/
theorem test_clss_tie : shown (.clss 846) sf = some (0, .noFault, 0) ∧ shown (.clss 5825) sf = some (3, .noFault, 0) := by
  decide

theorem test_newf : statusAfter .newf df = some 0xC0#32 ∧ byteAfter .newf df 4 = some 4 := by decide

/-- B-SF. -/
theorem test_getr_bytes : shown (.getr 0 0 16) (sfWith [0xA1, 0xB2]) = some (0xB2A1, .noFault, 0) := by decide

theorem test_getr_range : shown (.getr 0 121 32) (sfWith []) = some (0, .range, 0) := by decide

/-- §5: `SETR F0, 148, 4, 0xFFFFFFFF` writes four bits. -/
theorem test_setr_four_bits : byteAfter (.setr 0 148 4 0xFFFFFFFF) (sfWith []) 18 = some 0xF0 := by decide

/-- R173's example. -/
theorem test_setr_spans_bytes : byteAfter (.setr 0 4 8 0xFF) (sfWith [0xA1, 0xB2]) 1 = some 0xBF := by decide

/-- B-DF: the last byte of frame 1. -/
theorem test_getb_frame_one : shown (.getb 1 8) (dfWith []) = some (6, .noFault, 0) := by decide

/-- B-U: UNINIT is checked before RANGE. -/
theorem test_getb_uninit : shown (.getb 0 200) sf = some (0, .uninit, 0) := by decide

theorem test_setb : byteAfter (.setb 2 6 0xFE) (dfWith [1, 2]) 6 = some 0xFE := by decide

theorem test_setb_selector : shown (.setb 3 0 0) (sfWith []) = some (0, .illegalOperand, 0) := by decide

/-- R197's example: 22.5 °C. -/
theorem test_settemp_half :
    shown (.settemp 45) (sfWith []) = some (0x1002D, .noFault, 0) ∧ byteAfter (.settemp 45) (sfWith []) 6 = some 0x2C := by
  decide

/-- E4: 10 °C is stored as 16 °C with the limit bit. -/
theorem test_settemp_clamped :
    byteAfter (.settemp 20) (dfWith []) 7 = some 0x10 ∧ byteAfter (.settemp 20) (dfWith []) 8 = some 0x02 := by decide

/-- §6: a captured temperature is returned as captured. -/
theorem test_gettemp_captured :
    shown .gettemp (sfWith [0, 0, 0, 0, 0, 0, 0x50, 0x03]) = some (0x30051, .noFault, 0) := by decide

/-- §7: Cool in the dual-frame variant sets the misc bit. -/
theorem test_setmode_misc : byteAfter (.setmode (.named 2)) (dfWith []) 6 = some 0x31 := by decide

theorem test_setmode_raw_too_wide : shown (.setmode (.raw 0x10)) (dfWith []) = some (0, .illegalOperand, 0) := by decide

/-- E1. -/
theorem test_getmode_heat : shown .getmode (sfWith [0, 0, 0, 0, 0, 0x41]) = some (0x341, .noFault, 0) := by decide

theorem test_getmode_unknown : shown .getmode (sfWith [0, 0, 0, 0, 0, 0x0F]) = some (0xFF0F, .noFault, 0) := by decide

/-- E8: the angle nibble is kept. -/
theorem test_setfpwr_keeps_angle :
    byteAfter (.setfpwr (.named 2)) (sfWith [0, 0, 0, 0, 0, 0, 0, 0, 3]) 8 = some 0x43 := by decide

theorem test_setfpwr_wrong_variant : shown (.setfpwr (.named 9)) df = some (0, .wrongVariant, 0) := by decide

/-- E2. -/
theorem test_getfpwr : shown .getfpwr (sfWith [0, 0, 0, 0, 0, 0, 0, 0, 0x40]) = some (0x204, .noFault, 0) := by decide

theorem test_setfang_keeps_power :
    byteAfter (.setfang (.named 4)) (sfWith [0, 0, 0, 0, 0, 0, 0, 0, 0x40]) 8 = some 0x44 := by decide

theorem test_getfang : shown .getfang (sfWith [0, 0, 0, 0, 0, 0, 0, 0, 0x43]) = some (0x303, .noFault, 0) := by decide

theorem test_setfan : byteAfter (.setfan (.named 3)) (dfWith []) 9 = some 0x50 := by decide

theorem test_getfan : shown .getfan (dfWith [0, 0, 0, 0, 0, 0, 0, 0, 0x52]) = some (0x305, .noFault, 0) := by decide

theorem test_setswing : byteAfter (.setswing (.named 2)) (dfWith [0, 0, 0, 0, 0, 0, 0, 0, 0x50]) 9 = some 0x52 := by decide

theorem test_getswing : shown .getswing (dfWith [0, 0, 0, 0, 0, 0, 0, 0, 0x52]) = some (0x202, .noFault, 0) := by decide

/-- E3: bytes that sum to 493. -/
theorem test_ckgen : shown .ckgen (dfWith [2, 32, 224, 4, 0, 49, 22, 1, 82, 0, 0, 0, 0, 77]) = some (0x1ED, .noFault, 0) := by
  decide

theorem test_ckchk_mismatch :
    shown .ckchk (dfWith [2, 32, 224, 4]) = some (0, .checksumMismatch, 0) := by decide

theorem test_getck_single_frame :
    shown .getck (sfWith [0, 0, 0, 0, 0, 0, 0, 0, 0, 0, 0, 0, 0, 0, 0, 0, 0, 0x12, 0x34]) = some (0x3412, .noFault, 0) := by
  decide

/-- §9: the first pairs of EMIT after NEWF. -/
theorem test_emit_first_pairs :
    (match exec .emit (sfWith [0xA1]) with
      | .next t => t.tx.take 6
      | _ => []) =
      [⟨.mark, 3500⟩, ⟨.space, 1715⟩, ⟨.mark, 465⟩, ⟨.space, 1275⟩, ⟨.mark, 465⟩, ⟨.space, 417⟩] := by decide

theorem test_emit_uninit : shown .emit df = some (0, .uninit, 0) := by decide

/-- §9: an illegal event word is no event. -/
theorem test_step_illegal_event_word :
    (match step { sf with port := [0x0D0001A1#32] } with
      | .next t => some (t.fcode, t.fpos, t.evcnt, t.port)
      | _ => none) = some (.illegalCommand, 0, 0, []) := by decide

/-- R280: the reset input, with a SETR word behind a NOP; its data word, had it come, would be the next one. -/
theorem test_step_reset_input :
    step { dfWith [1] with resetIn := true, res := 3, tx := [⟨.mark, 465⟩], port := [0#32, 0x48280800#32] } =
      .next { df with tx := [⟨.mark, 465⟩], port := [0#32] } := by rfl

/-- R280: a SETR word with its data word is no partial command, even where the data word reads as a SETR word. -/
theorem test_reset_keeps_whole_setr :
    abandonPartial [0x48280800#32, 0x48280800#32] = [0x48280800#32, 0x48280800#32] ∧
      abandonPartial [0x48280800#32, 0x48280800#32, 0x48280800#32] = [0x48280800#32, 0x48280800#32] := by decide

/-! ### Witnesses: a concrete state and operands for the hypotheses of each statement, clause by clause -/

open Sys2Proof.Statements

/-- A single-frame block inside a frame with `n` bits collected, a mark pending and `q` entries queued. -/
def sfAt (n q : Nat) : State :=
  { sf with sync := .inFrame, pend := true, cntB := n, oq := List.replicate q ⟨none, some 0⟩ }

/-- A dual-frame block inside the frame of slot A, likewise. -/
def dfAtA (n q : Nat) : State :=
  { df with sync := .inFrame, pend := true, cntA := n, oq := List.replicate q ⟨some 0, some 0⟩ }

/-- A dual-frame block inside the frame of slot B, likewise. -/
def dfAtB (n q : Nat) : State :=
  { df with
    sync := .inFrame, act := .b, doneA := true, pend := true, cntA := 64, cntB := n,
    oq := List.replicate q ⟨some 0, none⟩ }

/-- DecodeOfEncode: operands at the ends of their fields. -/
theorem witness_well_formed :
    ∀ i ∈ [Instr.pulse (2 ^ 24 - 1), .getr 3 255 63, .setr 3 255 63 0xFFFFFFFF, .getb 3 255, .setb 0 0 0xFF,
        .settemp 255, .setmode (.named 255), .setfan (.raw 0xFF), .emit], i.wellFormed = true := by decide

/-- EncodeOfDecode, StepRunsDecodedCommand: a two-word command before another word. -/
theorem witness_decoded_command :
    sf.resetIn = false ∧
      decode [0x48280800#32, 0x41#32, 0#32] = .command (.setr 0 40 8 0x41) [0#32] := by decide

/-- ReservedOpcodeFaults: the first and the last reserved opcode. -/
theorem witness_reserved_opcode : reservedOpcode 0x1C000000#32 ∧ reservedOpcode 0xFFFFFFFF#32 := by
  unfold reservedOpcode; decide

/-- NonzeroReservedFieldFaults: a PULSE word with bit 24 set, a SETR word with bit 15 set. -/
theorem witness_nonzero_reserved_field :
    ((0x08000000#32, 0xFF000000#32, Opcode.pulse) ∈ opcodeRows ∧ 0x09000000#32 &&& 0xFC000000#32 = 0x08000000#32 ∧
        0x09000000#32 &&& 0xFF000000#32 ≠ 0x08000000#32) ∧
      (0x48000000#32, 0xFC00C0FF#32, Opcode.setr) ∈ opcodeRows ∧ 0x48008000#32 &&& 0xFC000000#32 = 0x48000000#32 ∧
        0x48008000#32 &&& 0xFC00C0FF#32 ≠ 0x48000000#32 := by decide

/-- BlockWaitsForWholeCommand: a lone SETR word. -/
theorem witness_lone_setr_word : sf.resetIn = false ∧ sf.port = [] ∧ (0x48280800#32).toNat / 2 ^ 26 = 0x12 := by decide

/-- PulseIsHeldPending. -/
theorem witness_pulse :
    df.fcode = .noFault ∧ df.pend = false ∧ classMark df.cfg 665 = some .mark ∧
      classMark sf.cfg 0xFFFFFF = some .headerMark := by decide

/-- PulseFaults. -/
theorem witness_pulse_faults :
    ((sfAt 0 0).fcode = .noFault ∧ (sfAt 0 0).pend = true) ∧
      df.fcode = .noFault ∧ df.pend = false ∧ classMark df.cfg 666 = none := by decide

/-- RecordedFaultStopsEventsOnly, OnlyCapstartAndResetClearFault: an event, a command and CAPSTART. -/
theorem witness_recorded_fault :
    (let s := { sf with fcode := FaultCode.range, port := [0x04000000#32] };
      s.fcode ≠ .noFault ∧ isEvent (.pulse 465) = true ∧ isEvent .popcmd = false ∧ s.resetIn = false ∧
        decode s.port = .command .capstart [] ∧ decode [0x08000000#32] = .command (.pulse 0) []) := by decide

/-- HeaderEntersFrame, in each synchronizer state. -/
theorem witness_header :
    ∀ y ∈ [SyncState.awaitHeader, .inFrame, .awaitNext],
      SpaceReady { dfAtA 3 0 with sync := y, pmark := .headerMark } 1915 .headerMark .headerSpace := by
  unfold SpaceReady; decide

/-- DataBitIsAppended: the first and the last bit of either slot. -/
theorem witness_data_bit :
    (SpaceReady (dfAtA 0 0) 617 .mark .short ∧ (dfAtA 0 0).sync = .inFrame ∧ (dfAtA 0 0).act = .a ∧
        (dfAtA 63 0).cntA < 64) ∧
      SpaceReady (sfAt 151 0) 1275 .mark .long ∧ (sfAt 151 0).sync = .inFrame ∧ (sfAt 151 0).act = .b ∧
        (sfAt 151 0).cntB < 152 := by unfold SpaceReady; decide

/-- SpaceFaults, clause by clause. -/
theorem witness_space_faults :
    (df.fcode = .noFault ∧ df.pend = false) ∧ (classSpace df.cfg 618 = none ∧ (dfAtA 0 0).pend = true) ∧
      SpaceReady (sfAt 0 0) 1715 .mark .headerSpace ∧
      SpaceReady { sfAt 0 0 with pmark := .headerMark } 9935 .headerMark .separator ∧
      (SpaceReady { sfAt 0 0 with sync := .awaitNext } 417 .mark .short) ∧
      (SpaceReady (dfAtA 64 0) 417 .mark .short ∧ (dfAtA 64 0).act = .a ∧ (dfAtA 64 0).cntA = 64) ∧
      SpaceReady (dfAtB 152 0) 1275 .mark .long ∧ (dfAtB 152 0).act = .b ∧ (dfAtB 152 0).cntB = 152 := by
  unfold SpaceReady; decide

/-- SeparatorSingleFrame: empty, full with the last free entry, partial at both ends, full without room. -/
theorem witness_separator_single_frame :
    (∀ s ∈ [sfAt 0 0, sfAt 152 3, sfAt 1 0, sfAt 151 4, sfAt 152 4],
        SpaceReady s 9935 .mark .separator ∧ s.cfg.variant = .sf ∧ s.act = .b) ∧
      (sfAt 152 3).oq.length < Config.testSF.oqDepth ∧ (sfAt 152 4).oq.length = Config.testSF.oqDepth := by
  unfold SpaceReady; decide

/-- SeparatorDualFrame, clause by clause. -/
theorem witness_separator_dual_frame :
    (∀ s ∈ [dfAtA 0 0, dfAtB 0 0, dfAtA 64 4, dfAtB 152 3, dfAtA 1 0, dfAtA 63 0, dfAtB 1 0, dfAtB 151 0, dfAtB 152 4],
        SpaceReady s 9935 .mark .separator ∧ s.cfg.variant = .df) ∧
      ((dfAtA 0 0).activeCount = 0 ∧ (dfAtB 0 0).activeCount = 0) ∧
      (dfAtB 152 3).oq.length < Config.testDF.oqDepth ∧ (dfAtB 152 4).oq.length = Config.testDF.oqDepth := by
  unfold SpaceReady; decide

/-- SeparatorOutsideFrameIsNoise: a state with the invariant, after a separator. -/
theorem witness_separator_outside_frame :
    { dfAtB 0 1 with sync := .awaitNext }.Inv ∧
      SpaceReady { dfAtB 0 1 with sync := .awaitNext } 9935 .mark .separator :=
  ⟨⟨by decide, by decide, by decide, by decide, by decide⟩, by unfold SpaceReady; decide⟩

/-- TimeoutSingleFrame: the five cases. -/
theorem witness_timeout_single_frame :
    (∀ s ∈ [sfAt 0 0, sfAt 152 3, sfAt 1 0, sfAt 151 0, sfAt 152 4],
        s.fcode = .noFault ∧ s.cfg.variant = .sf ∧ s.act = .b) ∧
      (sfAt 152 3).oq.length < Config.testSF.oqDepth ∧ (sfAt 152 4).oq.length = Config.testSF.oqDepth := by decide

/-- TimeoutDualFrame: the four rows of the table, and a partial frame of either slot. -/
theorem witness_timeout_dual_frame :
    (∀ s ∈ [dfAtA 0 0, dfAtA 64 3, dfAtA 64 4, dfAtA 1 0, dfAtA 63 0],
        s.fcode = .noFault ∧ s.cfg.variant = .df ∧ s.act = .a ∧ s.doneA = false) ∧
      (∀ s ∈ [dfAtB 0 3, dfAtB 0 4, dfAtB 152 3, dfAtB 152 4, dfAtB 1 0, dfAtB 151 0],
        s.fcode = .noFault ∧ s.cfg.variant = .df ∧ s.act = .b ∧ s.doneA = true) ∧
      (dfAtA 64 3).oq.length < Config.testDF.oqDepth ∧ (dfAtA 64 4).oq.length = Config.testDF.oqDepth := by decide

/-- PopcmdTakesOldestEntry: an empty queue, and one of each variant. -/
theorem witness_popcmd :
    sf.oq = [] ∧ (sf.cfg.variant = .sf ∧ (sfAt 0 1).oq = ⟨none, some 0⟩ :: []) ∧
      df.cfg.variant = .df ∧ (dfAtB 0 1).oq = ⟨some 0, none⟩ :: [] := by decide

/-- ChkleadComparesTemplate, EmitAppendsFrames and the field and checksum statements: valid frames of each variant. -/
theorem witness_valid_frames :
    ((sfWith [9]).cfg.variant = .sf ∧ (sfWith [9]).wvB = true) ∧ (dfWith [9]).cfg.variant = .df ∧
      (dfWith [9]).wvA = true ∧ (dfWith [9]).wvB = true := by decide

/-- GetrReadsRange, SetrWritesRange: a range that ends with the frame, and an empty one at its end. -/
theorem witness_range :
    (Selects .sf 0 .b ∧ Holds (sfWith []) .b ∧ 120 + 32 ≤ bitsOf .b) ∧
      Selects .df 1 .a ∧ Holds (dfWith []) .a ∧ 64 + 0 ≤ bitsOf .a := by
  unfold Selects Holds; decide

/-- GetbReadsByte, SetbWritesByte: the first and the last byte of each frame. -/
theorem witness_byte :
    (ByteAt .sf .b 0 0 ∧ ByteAt .sf .b 18 144 ∧ Selects .sf 0 .b ∧ Holds (sfWith []) .b) ∧
      (ByteAt .df .a 1 0 ∧ ByteAt .df .a 8 56 ∧ Selects .df 1 .a ∧ Holds (dfWith []) .a) ∧
      ByteAt .df .b 1 0 ∧ ByteAt .df .b 19 144 ∧ Selects .df 2 .b ∧ Holds (dfWith []) .b := by
  unfold ByteAt Selects Holds
  refine ⟨⟨?_, ?_, ?_, ?_⟩, ⟨?_, ?_, ?_, ?_⟩, ?_, ?_, ?_, ?_⟩ <;> decide

/-- FrameAccessFaults: a selector that names no frame, a frame that is not valid, a range one bit too long. -/
theorem witness_frame_access_faults :
    (∀ x, ¬Selects .sf 1 x) ∧ (∀ x, ¬Selects .df 3 x) ∧ (Selects .sf 0 .b ∧ ¬Holds sf .b) ∧
      (Selects .df 1 .a ∧ Holds (dfWith []) .a ∧ bitsOf .a < 33 + 32) ∧
      (∀ p, ¬ByteAt .sf .b 19 p) ∧ (∀ p, ¬ByteAt .df .a 0 p) ∧ (∀ p, ¬ByteAt .df .a 9 p) ∧ ∀ p, ¬ByteAt .df .b 20 p := by
  simp [Selects, Holds, ByteAt, bitsOf, sf, dfWith, State.resetOf]

/-- RepeatedCommandChangesNothing: a command that writes a frame and one that does not. -/
theorem witness_repeated_command :
    (isEvent (.setb 0 0 1) = false ∧ Instr.setb 0 0 1 ≠ .popcmd ∧ Instr.setb 0 0 1 ≠ .emit) ∧
      isEvent .getck = false ∧ writesFrames .getck = false ∧ Instr.getck ≠ .popcmd ∧ Instr.getck ≠ .emit ∧
        Instr.getck ≠ .capstart := by decide

/-- The setters' and getters' statements: a named value and the largest raw codes, on valid frames of well-formed
blocks. -/
theorem witness_setter_operands :
    (Resolves (.named 4) Config.testSF.sfModePat (Config.testSF.sfModePat[4]) ∧
        Resolves (.raw 0xFF) Config.testSF.sfModePat 0xFF#8 ∧ Resolves (.raw 0x0F) Config.testSF.sfAngPat 0xF#4) ∧
      (Resolves (.named 2) Config.testDF.dfModePat (Config.testDF.dfModePat[2]) ∧
        Resolves (.raw 0x0F) Config.testDF.dfFanPat 0xF#4) ∧
      (sfWith [9]).cfg.Ok ∧ (sfWith [9]).cfg.variant = .sf ∧ (sfWith [9]).wvB = true ∧
      (dfWith [9]).cfg.Ok ∧ (dfWith [9]).cfg.variant = .df ∧ (dfWith [9]).wvB = true :=
  ⟨⟨.inl ⟨4, by decide, rfl, rfl⟩, .inr ⟨0xFF, rfl, by decide, rfl⟩, .inr ⟨0x0F, rfl, by decide, rfl⟩⟩,
    ⟨.inl ⟨2, by decide, rfl, rfl⟩, .inr ⟨0x0F, rfl, by decide, rfl⟩⟩, by decide, rfl, rfl, by decide, rfl, rfl⟩

/-- FieldCommandFaults: the first operands out of range, and the last in range, on frames that are not valid. -/
theorem witness_field_faults :
    (OutOfRange (.named 5) 8 5 ∧ OutOfRange (.raw 0x10) 4 6 ∧ OutOfRange (.named 6) 4 6) ∧
      (¬OutOfRange (.named 4) 8 5 ∧ ¬OutOfRange (.raw 0x0F) 4 6) ∧ sf.wvB = false ∧ df.wvB = false ∧ df.wvA = false ∧
      sf.cfg.variant = .sf ∧ df.cfg.variant = .df := by
  simp [OutOfRange, sf, df, State.resetOf, Config.testSF, Config.testDF]

/-- CkchkValidatesByteSum: a frame with its sum, and one without. -/
theorem witness_checksum :
    ((dfByte (dfWith [2, 3]) 19).toNat ≠ byteSum (dfWith [2, 3])) ∧
      (dfByte (dfWith [2, 3, 0, 0, 0, 0, 0, 0, 0, 0, 0, 0, 0, 0, 0, 0, 0, 0, 5]) 19).toNat =
        byteSum (dfWith [2, 3, 0, 0, 0, 0, 0, 0, 0, 0, 0, 0, 0, 0, 0, 0, 0, 0, 5]) := by decide

/-- ChecksumFollowsCoveredBytes: two changes at the ends of the covered bytes whose sum is 0. -/
theorem witness_covered_bytes :
    (dfWith [2]).cfg.variant = .df ∧ (dfWith [2]).wvB = true ∧ (18 : Nat) ≠ 1 ∧
      (5#8 - dfByte (dfWith [2]) 1) + (0xFD#8 - dfByte (dfWith [2]) 18) = 0 := by decide

/-- SingleFrameChecksumPassesThrough. -/
theorem witness_pass_through :
    (sfWith [9]).cfg.Ok ∧ (sfWith [9]).cfg.variant = .sf ∧ Instr.settemp 45 ≠ .newf ∧ Instr.settemp 45 ≠ .popcmd := by
  decide

/-- StepKeepsInvariant, UndefinedStateIsUnobservable: two different states that differ only where no value is
defined. -/
theorem witness_same_defined :
    (dfAtA 3 1).Inv ∧ { dfAtA 3 1 with wB := 9, abufA := 8, abufB := 1 }.Inv ∧
      (dfAtA 3 1).SameDefined { dfAtA 3 1 with wB := 9, abufA := 8, abufB := 1 } ∧
      dfAtA 3 1 ≠ { dfAtA 3 1 with wB := 9, abufA := 8, abufB := 1 } :=
  ⟨⟨by decide, by decide, by decide, by decide, by decide⟩, ⟨by decide, by decide, by decide, by decide, by decide⟩,
    by decide, by decide⟩

/-- ReadPortShowsRegisters, InvariantHoldsAtReset: the invariant with a fault recorded and a full queue. -/
theorem witness_invariant :
    { sfAt 152 4 with fcode := .queueOverflow, evcnt := 9, fpos := 9 }.Inv ∧ sf.cfg.Ok ∧ df.cfg.Ok :=
  ⟨⟨by decide, by decide, by decide, by decide, by decide⟩, by decide, by decide⟩

/-- ResetGivesStatedValues: whole commands on the port, none and two, and a SETR word behind them. -/
theorem witness_port_at_reset :
    (∀ p ∈ ([] : List (List Word)), WholeCommand p) ∧
      (∀ p ∈ [[0#32], [0x48280800#32, 0x41#32]], WholeCommand p) ∧
      [[0#32], [0x48280800#32, 0x41#32]].flatten = [0#32, 0x48280800#32, 0x41#32] ∧
      (0x48008000#32).toNat / 2 ^ 26 = 0x12 := by
  refine ⟨by simp, fun p hp => ?_, rfl, by decide⟩
  simp only [List.mem_cons, List.not_mem_nil, or_false] at hp
  rcases hp with rfl | rfl
  · exact .inl ⟨_, by decide, rfl⟩
  · exact .inr ⟨_, _, by decide, rfl⟩

/-- FaultsArePrecise, ResetGivesStatedValues. -/
theorem witness_fault_free_and_reset_input :
    (sfAt 3 0).fcode = .noFault ∧ { sfAt 3 0 with resetIn := true }.resetIn = true := by decide

end Sys2Proof.Tests
end

section
/-! SUPPORT. What one step can do, and what the operations of the synchronizer and the queue can do when they answer. -/

namespace Sys2Proof.Machine

/-! ### One step, and one command -/

section
variable {s : State}

/-- With the reset input asserted, the step takes it. -/
theorem step_of_reset (hr : s.resetIn = true) : step s = .next s.takeReset := if_pos hr

theorem step_of_waiting (hr : s.resetIn = false) (hd : decode s.port = .waiting) : step s = .next s := by
  simp [step, State.fetch, hr, hd]

theorem step_of_illegal {why : IllegalWord} {rest : List Word} (hr : s.resetIn = false)
    (hd : decode s.port = .illegal why rest) : step s = .next (s.takeIllegal rest) := by
  simp [step, State.fetch, hr, hd]

/-- With the reset input low, a command at the head of the port is taken and executed. -/
theorem step_of_command {i : Instr} {rest : List Word} (hr : s.resetIn = false)
    (hd : decode s.port = .command i rest) : step s = exec i (s.withPort rest) := by
  simp [step, State.fetch, hr, hd]

end

/-- The four things a step can do: take the reset input, wait, take an illegal word, or take and execute a command. -/
theorem step_cases (s : State) :
    (s.resetIn = true ∧ step s = .next s.takeReset) ∨
      (s.resetIn = false ∧ decode s.port = .waiting ∧ step s = .next s) ∨
      (s.resetIn = false ∧ ∃ why rest, decode s.port = .illegal why rest ∧ step s = .next (s.takeIllegal rest)) ∨
      (s.resetIn = false ∧ ∃ i rest, decode s.port = .command i rest ∧ step s = exec i (s.withPort rest)) := by
  cases hr : s.resetIn with
  | true => exact .inl ⟨rfl, step_of_reset hr⟩
  | false =>
    refine .inr ?_
    cases hd : decode s.port with
    | waiting => exact .inl ⟨rfl, rfl, step_of_waiting hr hd⟩
    | illegal why rest => exact .inr (.inl ⟨rfl, why, rest, rfl, step_of_illegal hr hd⟩)
    | command i rest => exact .inr (.inr ⟨rfl, i, rest, rfl, step_of_command hr hd⟩)

/-- What a command can leave behind, event or not: the state as it was, the effect of its kind, or the state with a
fault recorded. -/
theorem exec_cases (i : Instr) (s : State) : ∃ t, exec i s = .next t ∧
    (t = s ∨ (effectKind i).Leaves s t ∨ (∃ c, c.isCapture = false ∧ t = s.raise c false) ∨
      (effectKind i = .event ∧ s.fcode = .noFault ∧
        (eventEffect i s.countEvent = .ok t ∨ ∃ c, c.isCapture = true ∧ t = s.countEvent.raise c true))) := by
  by_cases hk : effectKind i = .event
  · rcases exec_event_cases i s hk with ⟨_, he⟩ | ⟨hf, t, ht, he, _⟩ | ⟨hf, c, hc, _, he⟩
    · exact ⟨s, he, .inl rfl⟩
    · exact ⟨t, he, .inr (.inr (.inr ⟨hk, hf, .inl ht⟩))⟩
    · refine ⟨_, he, .inr (.inr (.inr ⟨hk, hf, .inr ⟨c, hc, ?_⟩⟩))⟩
      rw [State.raise_of_noFault _ _ _ (by simpa using hf)]
      rfl
  · rcases exec_command_cases i s hk with ⟨t, he, hl⟩ | ⟨c, hc, he⟩
    · exact ⟨t, he, .inr (.inl hl)⟩
    · exact ⟨_, he, .inr (.inr (.inl ⟨c, hc, rfl⟩))⟩

/-! ### The effects of the events, when they answer (41_synchronizer.md R133 to R143) -/

theorem pulseEffect_ok {dur : Nat} {s t : State} (h : pulseEffect dur s = .ok t) :
    ∃ mc, t = { s with pend := true, pmark := mc }.setRes (BitVec.ofNat 32 mc.code) := by
  simp only [pulseEffect, bind, Except.bind, pure, Except.pure] at h
  (repeat' split at h) <;> cases h
  exact ⟨_, rfl⟩

theorem bitEffect_ok {v : Bool} {s t : State} (h : bitEffect v s = .ok t) :
    s.sync = .inFrame ∧ s.activeCount ≠ frameLen s.act ∧ t = s.appendBit v := by
  simp only [bitEffect, check, bind, Except.bind, pure, Except.pure] at h
  by_cases hs : s.sync = .inFrame
  · by_cases hc : s.activeCount = frameLen s.act <;> simp [hs, hc] at h
    exact ⟨hs, hc, h.symm⟩
  · simp [hs] at h

/-- A separator of the single-frame variant ends nothing, or queues the frame. -/
theorem separatorEffectSF_ok {s t : State} (h : separatorEffectSF s = .ok t) :
    (s.activeCount = 0 ∧ t = { s with sync := .awaitNext }) ∨
      (s.activeCount = frameLen s.act ∧ s.oq.length ≠ s.cfg.oqDepth ∧
        t = { s with oq := s.oq ++ [⟨none, some s.abufB⟩], cntB := 0, sync := .awaitNext }) := by
  simp only [separatorEffectSF, bind, Except.bind, pure, Except.pure] at h
  rcases s.closeActive_cases with ⟨hc, he⟩ | ⟨hc, he⟩ | ⟨_, _, he⟩ <;> simp only [he] at h
  · exact .inl ⟨hc, by simpa using h.symm⟩
  · split at h <;> cases h
    next hp =>
      obtain ⟨hr, rfl⟩ := State.push_eq hp
      exact .inr ⟨hc, hr, rfl⟩
  · cases h

/-- A separator of the dual-frame variant ends nothing, completes frame 1, or queues both frames. -/
theorem separatorEffectDF_ok {s t : State} (h : separatorEffectDF s = .ok t) :
    (s.activeCount = 0 ∧ t = { s with sync := .awaitNext }) ∨
      (s.act = .a ∧ s.cntA = 64 ∧ t = { s with doneA := true, act := .b, cntB := 0, sync := .awaitNext }) ∨
      (s.act = .b ∧ s.cntB = 152 ∧ s.oq.length ≠ s.cfg.oqDepth ∧
        t = { s with
          oq := s.oq ++ [⟨some s.abufA, some s.abufB⟩], cntA := 0, cntB := 0, doneA := false, act := .a,
          sync := .awaitNext }) := by
  simp only [separatorEffectDF, bind, Except.bind, pure, Except.pure] at h
  rcases s.closeActive_cases with ⟨hc, he⟩ | ⟨hc, he⟩ | ⟨_, _, he⟩ <;> simp only [he] at h
  · exact .inl ⟨hc, by simpa using h.symm⟩
  · unfold State.activeCount at hc
    cases ha : s.act <;> simp only [ha] at h hc
    · exact .inr (.inl ⟨rfl, hc, by simpa using h.symm⟩)
    · split at h <;> cases h
      next hp =>
        obtain ⟨hr, rfl⟩ := State.push_eq hp
        exact .inr (.inr ⟨rfl, hc, hr, rfl⟩)
  · cases h

/-- A TIMEOUT queues the entry that it flushes, if there is one, and restarts the synchronizer. -/
theorem timeoutEffect_ok {s t : State} (h : timeoutEffect s = .ok t) :
    ∃ r, s.closeActive = .ok r ∧
      ((flushEntry s r = none ∧ t = s.restartSync.setRes 0) ∨
        ∃ e, flushEntry s r = some e ∧ s.oq.length ≠ s.cfg.oqDepth ∧
          t = { s with oq := s.oq ++ [e] }.restartSync.setRes 1) := by
  simp only [timeoutEffect, bind, Except.bind, pure, Except.pure] at h
  cases hc : s.closeActive with
  | error c => simp [hc] at h
  | ok r =>
    refine ⟨r, rfl, ?_⟩
    cases he : flushEntry s r with
    | none => exact .inl ⟨rfl, by simpa [hc, he, State.pushIf] using h.symm⟩
    | some e =>
      simp only [hc, he, State.pushIf] at h
      split at h <;> cases h
      next hp =>
        obtain ⟨hr, rfl⟩ := State.push_eq hp
        exact .inr ⟨e, rfl, hr, rfl⟩

/-- A SPACE has the effect of its symbol, and takes the pending pulse. -/
theorem spaceEffect_ok {dur : Nat} {s t : State} (h : spaceEffect dur s = .ok t) :
    ∃ sym u, symbolEffect sym s = .ok u ∧ t = { u with pend := false }.setRes (BitVec.ofNat 32 sym.code) := by
  simp only [spaceEffect, bind, Except.bind, pure, Except.pure] at h
  (repeat' split at h) <;> cases h
  next hs => exact ⟨_, _, hs, rfl⟩

/-- A header or a data bit has one effect in both variants; a separator has the effect of its variant. -/
theorem symbolEffect_ok {sym : PairSymbol} {s t : State} (h : symbolEffect sym s = .ok t) :
    t = { s with sync := .inFrame } ∨ (∃ v, bitEffect v s = .ok t) ∨
      (s.cfg.variant = .sf ∧ separatorEffectSF s = .ok t) ∨ (s.cfg.variant = .df ∧ separatorEffectDF s = .ok t) := by
  cases sym with
  | header => cases h; exact .inl rfl
  | bit v => exact .inr (.inl ⟨v, h⟩)
  | separator => cases hv : s.cfg.variant <;> simp [symbolEffect, hv] at h <;> simp [h]

end Sys2Proof.Machine
end

section
/-! SUPPORT. The invariant of the state: it holds after reset, every operation keeps it, and so does every step. -/

namespace Sys2Proof

/-- The choice of parameters that stands for the block is well formed, whatever the open constant is. -/
theorem Config.block_ok : Config.block.Ok := by
  unfold Config.block Config.orTest
  split
  · assumption
  · decide

end Sys2Proof

namespace Sys2Proof.Machine

/-! ### The synchronizer's invariant, by the frame that is being collected -/

/-- The 152-bit frame is being collected: the only frame, or frame 2 behind a complete frame 1. -/
def State.CollectsB (s : State) : Prop :=
  s.act = .b ∧ s.cntB ≤ 152 ∧ (s.sync ≠ .inFrame → s.cntB = 0) ∧
    (s.cfg.variant = .sf ∧ s.doneA = false ∧ s.cntA = 0 ∨ s.cfg.variant = .df ∧ s.doneA = true ∧ s.cntA = 64)

/-- Frame 1 of the dual-frame variant is being collected. -/
def State.CollectsA (s : State) : Prop :=
  s.act = .a ∧ s.cfg.variant = .df ∧ s.doneA = false ∧ s.cntB = 0 ∧ s.cntA ≤ 64 ∧ (s.sync ≠ .inFrame → s.cntA = 0)

theorem State.syncInv_iff (s : State) : s.SyncInv ↔ s.CollectsB ∨ s.CollectsA := by
  constructor
  · rintro ⟨hsf, hdf, hdone, hA, hB, hempty, hout⟩
    cases ha : s.act with
    | b =>
      refine .inl ⟨ha, hB, by simpa [State.activeCount, ha] using hout, ?_⟩
      cases hv : s.cfg.variant with
      | sf => exact .inl ⟨rfl, (hsf hv).2⟩
      | df => exact .inr ⟨rfl, (hdf hv).mp ha, hdone ((hdf hv).mp ha)⟩
    | a =>
      have hv : s.cfg.variant = .df := by
        cases hv : s.cfg.variant with
        | sf => simp [ha] at hsf; exact absurd hv hsf
        | df => rfl
      have hd : s.doneA = false := by simpa [ha] using hdf hv
      exact .inr ⟨ha, hv, hd, hempty ha, hA, by simpa [State.activeCount, ha] using hout⟩
  · rintro (⟨ha, hB, hout, ⟨hv, hd, hc⟩ | ⟨hv, hd, hc⟩⟩ | ⟨ha, hv, hd, hB, hA, hout⟩)
    · simpa [State.SyncInv, State.activeCount, ha, hv, hd, hc] using ⟨hB, hout⟩
    · simpa [State.SyncInv, State.activeCount, ha, hv, hd, hc] using ⟨hB, hout⟩
    · simpa [State.SyncInv, State.activeCount, ha, hv, hd, hB] using ⟨hA, hout⟩

/-- The synchronizer as reset, CAPSTART and TIMEOUT leave it. -/
theorem State.syncInv_restartSync (s : State) : s.restartSync.SyncInv := by
  rw [State.syncInv_iff]
  cases hv : s.cfg.variant <;>
    simp [State.CollectsA, State.CollectsB, State.restartSync, firstSlot, hv]

/-! ### The operations of the synchronizer and the queue keep the invariants -/

section
variable {s t : State}

theorem State.SyncInv.appendBit (h : s.SyncInv) (hin : s.sync = .inFrame) (hroom : s.activeCount ≠ frameLen s.act)
    (v : Bool) : (s.appendBit v).SyncInv := by
  rw [State.syncInv_iff] at h ⊢
  rcases h with ⟨ha, hB, -, hrest⟩ | ⟨ha, hv, hd, hB, hA, -⟩
  · have : s.cntB ≠ 152 := by simpa [State.activeCount, frameLen, ha] using hroom
    refine .inl ?_
    simp only [State.CollectsB, State.appendBit, ha]
    exact ⟨trivial, by omega, fun hn => absurd hin hn, hrest⟩
  · have : s.cntA ≠ 64 := by simpa [State.activeCount, frameLen, ha] using hroom
    refine .inr ?_
    simp only [State.CollectsA, State.appendBit, ha]
    exact ⟨trivial, hv, hd, hB, by omega, fun hn => absurd hin hn⟩

/-- Leaving a frame keeps the invariant where the active slot is empty. -/
theorem State.SyncInv.awaitNext (h : s.SyncInv) (hc : s.activeCount = 0) : { s with sync := .awaitNext }.SyncInv := by
  obtain ⟨hsf, hdf, hdone, hA, hB, hempty, -⟩ := h
  exact ⟨hsf, hdf, hdone, hA, hB, hempty, fun _ => hc⟩

theorem State.SyncInv.separatorEffectSF (h : s.SyncInv) (hv : s.cfg.variant = .sf)
    (ht : separatorEffectSF s = .ok t) : t.SyncInv := by
  rcases separatorEffectSF_ok ht with ⟨hc, rfl⟩ | ⟨-, -, rfl⟩
  · exact h.awaitNext hc
  · rw [State.syncInv_iff] at h ⊢
    simp_all [State.CollectsA, State.CollectsB]

theorem State.SyncInv.separatorEffectDF (h : s.SyncInv) (hv : s.cfg.variant = .df)
    (ht : separatorEffectDF s = .ok t) : t.SyncInv := by
  rcases separatorEffectDF_ok ht with ⟨hc, rfl⟩ | ⟨-, hA, rfl⟩ | ⟨-, -, -, rfl⟩
  · exact h.awaitNext hc
  · exact (State.syncInv_iff _).mpr (.inl ⟨rfl, by simp, by simp, .inr ⟨hv, rfl, hA⟩⟩)
  · exact (State.syncInv_iff _).mpr (.inr ⟨rfl, hv, rfl, rfl, by simp, by simp⟩)

theorem State.SyncInv.symbolEffect {sym : PairSymbol} (h : s.SyncInv) (ht : symbolEffect sym s = .ok t) :
    t.SyncInv := by
  rcases symbolEffect_ok ht with rfl | ⟨v, hb⟩ | ⟨hv, hs⟩ | ⟨hv, hs⟩
  · obtain ⟨hsf, hdf, hdone, hA, hB, hempty, -⟩ := h
    exact ⟨hsf, hdf, hdone, hA, hB, hempty, fun hn => absurd rfl hn⟩
  · obtain ⟨hin, hroom, rfl⟩ := bitEffect_ok hb
    exact h.appendBit hin hroom v
  · exact h.separatorEffectSF hv hs
  · exact h.separatorEffectDF hv hs

theorem State.SyncInv.eventEffect {i : Instr} (hk : effectKind i = .event) (h : s.SyncInv)
    (ht : eventEffect i s = .ok t) : t.SyncInv := by
  cases i with
  | pulse dur => obtain ⟨mc, rfl⟩ := pulseEffect_ok ht; exact h
  | space dur =>
    obtain ⟨sym, u, hu, rfl⟩ := spaceEffect_ok ht
    have hu := h.symbolEffect hu
    exact hu
  | timeout =>
    obtain ⟨r, -, ⟨-, rfl⟩ | ⟨e, -, -, rfl⟩⟩ := timeoutEffect_ok ht
    · exact s.syncInv_restartSync
    · exact State.syncInv_restartSync { s with oq := s.oq ++ [e] }
  | _ => cases hk

/-- An entry of the shape that the variant queues. -/
def Entry.FitsVariant (v : Variant) (e : Entry) : Prop :=
  (v = .sf → e.fa = none ∧ e.fb ≠ none) ∧ (v = .df → e.fa ≠ none)

theorem State.QueueInv.append {e : Entry} (h : s.QueueInv) (hr : s.oq.length ≠ s.cfg.oqDepth)
    (he : e.FitsVariant s.cfg.variant) : { s with oq := s.oq ++ [e] }.QueueInv := by
  obtain ⟨hlen, hsf, hdf⟩ := h
  refine ⟨by simp; omega, fun hv x hx => ?_, fun hv x hx => ?_⟩ <;> rcases List.mem_append.mp hx with hx | hx
  · exact hsf hv x hx
  · exact List.mem_singleton.mp hx ▸ he.1 hv
  · exact hdf hv x hx
  · exact List.mem_singleton.mp hx ▸ he.2 hv

/-- An entry that a TIMEOUT flushes has the shape of the variant. -/
theorem flushEntry_fitsVariant {r : Closed} {e : Entry} (h : flushEntry s r = some e) :
    e.FitsVariant s.cfg.variant := by
  unfold flushEntry at h
  split at h <;> cases h <;> simp [Entry.FitsVariant, *]

theorem State.QueueInv.symbolEffect {sym : PairSymbol} (h : s.QueueInv) (ht : symbolEffect sym s = .ok t) :
    t.QueueInv := by
  rcases symbolEffect_ok ht with rfl | ⟨v, hb⟩ | ⟨hv, hs⟩ | ⟨hv, hs⟩
  · exact h
  · obtain ⟨-, -, rfl⟩ := bitEffect_ok hb
    simpa [State.QueueInv] using h
  · rcases separatorEffectSF_ok hs with ⟨-, rfl⟩ | ⟨-, hr, rfl⟩
    · exact h
    · exact h.append hr (by simp [Entry.FitsVariant, hv])
  · rcases separatorEffectDF_ok hs with ⟨-, rfl⟩ | ⟨-, -, rfl⟩ | ⟨-, -, hr, rfl⟩
    · exact h
    · exact h
    · exact h.append hr (by simp [Entry.FitsVariant, hv])

theorem State.QueueInv.eventEffect {i : Instr} (hk : effectKind i = .event) (h : s.QueueInv)
    (ht : eventEffect i s = .ok t) : t.QueueInv := by
  cases i with
  | pulse dur => obtain ⟨mc, rfl⟩ := pulseEffect_ok ht; exact h
  | space dur =>
    obtain ⟨sym, u, hu, rfl⟩ := spaceEffect_ok ht
    have hu := h.symbolEffect hu
    exact hu
  | timeout =>
    obtain ⟨r, -, ⟨-, rfl⟩ | ⟨e, he, hr, rfl⟩⟩ := timeoutEffect_ok ht
    · exact h
    · exact h.append hr (flushEntry_fitsVariant he)
  | _ => cases hk

/-! ### Recording a fault keeps the invariant -/

theorem State.FaultInv.raise (h : s.FaultInv) {c : FaultCode} {e : Bool} (hc : c.isCapture = e) :
    (s.raise c e).FaultInv := by
  by_cases hf : s.fcode = .noFault
  · rw [State.raise_of_noFault _ _ _ hf]
    cases e <;> simp [State.FaultInv, hc]
  · rwa [State.raise_of_fault _ _ _ hf]

theorem State.Inv.raise (h : s.Inv) {c : FaultCode} {e : Bool} (hc : c.isCapture = e) : (s.raise c e).Inv := by
  obtain ⟨hcfg, hsync, hq, hf, hw⟩ := h
  refine ⟨by simpa using hcfg, ?_, ?_, hf.raise hc, by simpa using hw⟩
  · simpa [State.SyncInv, State.activeCount] using hsync
  · simpa [State.QueueInv] using hq

/-- An event is counted only while no fault is recorded, so that FPOS stays the faulting event's ordinal. -/
theorem State.Inv.countEvent (h : s.Inv) (hf : s.fcode = .noFault) : s.countEvent.Inv := by
  obtain ⟨hcfg, hsync, hq, ⟨-, hpos⟩, hw⟩ := h
  exact ⟨hcfg, hsync, hq, ⟨fun hc => by simp [hf, FaultCode.isCapture, FaultCode.code] at hc, hpos⟩, hw⟩

/-! ### Every command and every step keeps the invariant -/

theorem State.Inv.eventEffect {i : Instr} (hk : effectKind i = .event) (h : s.Inv) (ht : eventEffect i s = .ok t) :
    t.Inv := by
  obtain ⟨hcfg, hsync, hq, hf, hw⟩ := h
  have hs := hsync.eventEffect hk ht
  have hq := hq.eventEffect hk ht
  have hkeep : KeepsOutside s t := eventEffect_keeps ht
  unfold KeepsOutside at hkeep
  rw [hkeep] at hs hq ⊢
  exact ⟨hcfg, hs, hq, hf, hw⟩

theorem State.Inv.newFrames (h : s.Inv) : (newFrames s).Inv := by
  obtain ⟨hcfg, hsync, hq, hf, hw⟩ := h
  unfold Machine.newFrames
  split
  · exact ⟨hcfg, hsync, hq, hf, hw⟩
  · next hv => exact ⟨hcfg, hsync, hq, hf, by simp [hv]⟩

theorem State.Inv.loadEntry (h : s.Inv) (e : Entry) : (s.loadEntry e).Inv := by
  obtain ⟨hcfg, hsync, hq, hf, hw⟩ := h
  unfold State.loadEntry
  split
  · exact ⟨hcfg, hsync, hq, hf, hw⟩
  · next hv => exact ⟨hcfg, hsync, hq, hf, by simp [hv]⟩

theorem State.Inv.popEffect (h : s.Inv) : (popEffect s).Inv := by
  unfold Machine.popEffect
  split
  · exact h
  · next e rest ho =>
    obtain ⟨hcfg, hsync, ⟨hlen, hsf, hdf⟩, hf, hw⟩ := h
    have hpop : { s with oq := rest }.Inv := by
      refine ⟨hcfg, hsync, ⟨?_, fun hv x hx => hsf hv x ?_, fun hv x hx => hdf hv x ?_⟩, hf, hw⟩
      · rw [ho] at hlen; exact Nat.le_of_succ_le hlen
      · rw [ho]; exact List.mem_cons_of_mem _ hx
      · rw [ho]; exact List.mem_cons_of_mem _ hx
    exact hpop.loadEntry e

theorem State.Inv.leaves {k : EffectKind} (h : s.Inv) (hl : k.Leaves s t) : t.Inv := by
  cases k with
  | event => exact hl.elim
  | answer => obtain ⟨v, rfl⟩ := hl; exact h
  | frameWrite => obtain ⟨wA, wB, v, rfl⟩ := hl; exact h
  | newFrames => cases hl; exact h.newFrames
  | popEntry => cases hl; exact h.popEffect
  | captureStart =>
    cases hl
    obtain ⟨hcfg, -, -, -, hw⟩ := h
    exact ⟨hcfg, s.syncInv_restartSync, ⟨Nat.zero_le _, by simp, by simp⟩, ⟨fun _ => rfl, fun _ => rfl⟩, hw⟩
  | emission => obtain ⟨pairs, v, rfl⟩ := hl; exact h

theorem State.Inv.exec (h : s.Inv) (i : Instr) : ∃ t, exec i s = .next t ∧ t.Inv := by
  obtain ⟨t, he, rfl | hl | ⟨c, hc, rfl⟩ | ⟨hk, hf, ht | ⟨c, hc, rfl⟩⟩⟩ := exec_cases i s
  · exact ⟨_, he, h⟩
  · exact ⟨t, he, h.leaves hl⟩
  · exact ⟨_, he, h.raise hc⟩
  · exact ⟨t, he, (h.countEvent hf).eventEffect hk ht⟩
  · exact ⟨_, he, (h.countEvent hf).raise hc⟩

end

theorem State.inv_resetOf {c : Config} (hc : c.Ok) : (State.resetOf c).Inv :=
  ⟨hc, State.syncInv_restartSync (State.resetOf c), ⟨Nat.zero_le _, by simp [State.resetOf], by simp [State.resetOf]⟩,
    ⟨fun _ => rfl, fun _ => rfl⟩, fun _ => rfl⟩

end Sys2Proof.Machine

open Sys2Proof Sys2Proof.Machine

/-- Settles O54, by the four things a step can do. -/
theorem stepKeepsInvariant : Obligations.StepKeepsInvariant := by
  intro s h
  rcases step_cases s with ⟨-, he⟩ | ⟨-, -, he⟩ | ⟨-, -, rest, -, he⟩ | ⟨-, i, rest, -, he⟩
  · exact ⟨_, he, State.inv_resetOf h.1⟩
  · exact ⟨s, he, h⟩
  · have hp : (s.withPort rest).Inv := h
    exact ⟨_, he, hp.raise rfl⟩
  · have hp : (s.withPort rest).Inv := h
    rw [he]
    exact hp.exec i

/-- Settles O53: the reset values satisfy the invariant for every well-formed choice of constants. -/
theorem invariantHoldsAtReset : Obligations.InvariantHoldsAtReset :=
  ⟨State.inv_resetOf Config.block_ok, fun _ hc => State.inv_resetOf hc⟩
end

section
/-! SUPPORT. The part of the state without a defined value cannot be seen: every command answers the same, up to that
part, from a state and from the state with that part cleared (`State.defined`). -/

namespace Sys2Proof.Machine

/-! ### The low bits of a buffer (10_state.md R46) -/

theorem lowBits_getLsbD {l : Nat} (x : BitVec l) (n i : Nat) :
    (lowBits x n).getLsbD i = (decide (i < n) && x.getLsbD i) := by
  by_cases hi : i < l
  · simp [lowBits, hi]
  · simp [BitVec.getLsbD_of_ge _ i (Nat.not_lt.mp hi)]

/-- A full buffer is all defined. -/
@[simp] theorem lowBits_self {l : Nat} (x : BitVec l) : lowBits x l = x := by simp [lowBits]

/-- An empty buffer has no defined bit. -/
@[simp] theorem lowBits_zero {l : Nat} (x : BitVec l) : lowBits x 0 = 0 :=
  BitVec.eq_of_getLsbD_eq fun i _ => by simp [lowBits_getLsbD]

@[simp] theorem lowBits_lowBits {l : Nat} (x : BitVec l) (n : Nat) : lowBits (lowBits x n) n = lowBits x n :=
  BitVec.eq_of_getLsbD_eq fun i _ => by simp [lowBits_getLsbD]

/-- A bit appended at the count is defined, and no bit above it. -/
theorem lowBits_append {l : Nat} (x : BitVec l) (n : Nat) (b : BitVec 1) :
    lowBits (withSlice (lowBits x n) n b) (n + 1) = lowBits (withSlice x n b) (n + 1) := by
  refine BitVec.eq_of_getLsbD_eq fun i hl => ?_
  simp only [lowBits_getLsbD, withSlice_getLsbD]
  rcases Nat.lt_trichotomy i n with hi | rfl | hi
  · simp [hi, Nat.not_le.mpr hi]
  · simp [hl]
  · simp [Nat.not_lt.mpr (Nat.succ_le_of_lt hi)]

/-! ### States with the same defined part -/

/-- Buffers with the same bits below the count, work frames with the same bits where they are valid, and the same class
of a pending pulse: the defined part is the same. -/
theorem State.sameDefined_with (s : State) {abufA : FrameA} {abufB : FrameB} {wA : FrameA} {wB : FrameB}
    {pmark : MarkClass} (hA : lowBits abufA s.cntA = lowBits s.abufA s.cntA)
    (hB : lowBits abufB s.cntB = lowBits s.abufB s.cntB) (hwA : s.wvA = true → wA = s.wA)
    (hwB : s.wvB = true → wB = s.wB) (hp : s.pend = true → pmark = s.pmark) :
    { s with abufA := abufA, abufB := abufB, wA := wA, wB := wB, pmark := pmark }.SameDefined s := by
  simp only [State.SameDefined, State.defined, hA, hB, ite_congr rfl hwA fun _ => rfl, ite_congr rfl hwB fun _ => rfl,
    ite_congr rfl hp fun _ => rfl]

section
variable (s : State)

theorem State.sameDefined_defined : s.defined.SameDefined s :=
  s.sameDefined_with (lowBits_lowBits _ _) (lowBits_lowBits _ _) (fun h => if_pos h) (fun h => if_pos h)
    fun h => if_pos h

@[simp] theorem State.defined_cfg : s.defined.cfg = s.cfg := rfl

@[simp] theorem State.defined_act : s.defined.act = s.act := rfl

@[simp] theorem State.defined_oq : s.defined.oq = s.oq := rfl

theorem State.defined_wA (h : s.wvA = true) : s.defined.wA = s.wA := if_pos h

theorem State.defined_wB (h : s.wvB = true) : s.defined.wB = s.wB := if_pos h

theorem State.defined_pmark (h : s.pend = true) : s.defined.pmark = s.pmark := if_pos h

/-- A valid work frame reads the same. -/
theorem State.readBits_defined {x : Slot} (h : s.valid x = true) (start n : Nat) :
    s.defined.readBits x start n = s.readBits x start n := by
  cases x with
  | a => exact congrArg (sliceOf · start n) (s.defined_wA h)
  | b => exact congrArg (sliceOf · start n) (s.defined_wB h)

theorem State.defined_raise (c : FaultCode) (e : Bool) : (s.raise c e).defined = s.defined.raise c e := by
  by_cases h : s.fcode = .noFault
  · rw [State.raise_of_noFault s c e h, State.raise_of_noFault s.defined c e h]; rfl
  · rw [State.raise_of_fault s c e h, State.raise_of_fault s.defined c e h]

/-- An emptied synchronizer has no defined bit in either buffer (10_state.md R62). -/
theorem State.sameDefined_restartSync : s.defined.restartSync.SameDefined s.restartSync :=
  s.restartSync.sameDefined_with (by simp) (by simp) s.defined_wA s.defined_wB fun h => by simp at h

theorem State.sameDefined_appendBit (b : Bool) : (s.defined.appendBit b).SameDefined (s.appendBit b) := by
  cases ha : s.act with
  | a =>
    simp only [State.appendBit, State.defined_act, ha]
    exact State.sameDefined_with
      { s with act := .a, abufA := withSlice s.abufA s.cntA (BitVec.ofBool b), cntA := s.cntA + 1 }
      (lowBits_append _ _ _) (lowBits_lowBits _ _) s.defined_wA s.defined_wB s.defined_pmark
  | b =>
    simp only [State.appendBit, State.defined_act, ha]
    exact State.sameDefined_with
      { s with act := .b, abufB := withSlice s.abufB s.cntB (BitVec.ofBool b), cntB := s.cntB + 1 }
      (lowBits_lowBits _ _) (lowBits_append _ _ _) s.defined_wA s.defined_wB s.defined_pmark

theorem State.sameDefined_writeBits {n : Nat} (x : Slot) (start : Nat) (v : BitVec n) :
    (s.defined.writeBits x start v).SameDefined (s.writeBits x start v) := by
  cases x with
  | a =>
    exact (s.writeBits .a start v).sameDefined_with (lowBits_lowBits _ _) (lowBits_lowBits _ _)
      (fun h => congrArg (withSlice · start v) (s.defined_wA h)) s.defined_wB s.defined_pmark
  | b =>
    exact (s.writeBits .b start v).sameDefined_with (lowBits_lowBits _ _) (lowBits_lowBits _ _)
      s.defined_wA (fun h => congrArg (withSlice · start v) (s.defined_wB h)) s.defined_pmark
end

theorem State.SameDefined.raise {s t : State} (h : s.SameDefined t) (c : FaultCode) (e : Bool) :
    (s.raise c e).SameDefined (t.raise c e) := by
  rw [State.SameDefined, State.defined_raise, State.defined_raise, h]

/-- Taking the pending pulse leaves its class undefined (10_state.md R45). -/
theorem State.SameDefined.clearPend {s t : State} (h : s.SameDefined t) :
    { s with pend := false }.SameDefined { t with pend := false } :=
  congrArg (fun u : State => { u with pend := false, pmark := .mark }) h

/-! ### The read port shows nothing undefined -/

theorem State.readPort_defined (s : State) (addr : BitVec 3) : s.defined.readPort addr = s.readPort addr := by
  have h : s.defined.shownPmark = s.shownPmark := by
    cases hp : s.pend <;> simp [State.shownPmark, State.defined, hp]
  have hs : s.defined.status = s.status := by
    unfold State.status
    rw [h]
    rfl
  unfold State.readPort
  rw [hs]
  rfl

end Sys2Proof.Machine
end

section
/-! SUPPORT. Every command answers the same, up to the undefined part, from a state and from its defined part. -/

namespace Sys2Proof.Machine

/-! ### Answers and outcomes that differ only where no value is defined -/

/-- The same fault, or states that differ only where no value is defined. -/
def Agree (r r' : Except FaultCode State) : Prop := r.map State.defined = r'.map State.defined

/-- Both complete, in states that differ only where no value is defined. -/
def Alike (o o' : Host.Outcome State Fault Refusal) : Prop :=
  ∃ t t', o = .next t ∧ o' = .next t' ∧ t.SameDefined t'

theorem agree_ok {t t' : State} (h : t.SameDefined t') : Agree (.ok t) (.ok t') := congrArg Except.ok h

theorem bind_congr_ok {α β : Type} {r : Except FaultCode α} {f g : α → Except FaultCode β}
    (h : ∀ a, r = .ok a → f a = g a) : r >>= f = r >>= g := by
  cases r with
  | ok a => exact h a rfl
  | error c => rfl

theorem map_congr_ok {α β : Type} {r : Except FaultCode α} {f g : α → β}
    (h : ∀ a, r = .ok a → f a = g a) : r.map f = r.map g := by
  cases r with
  | ok a => exact congrArg Except.ok (h a rfl)
  | error c => rfl

theorem agree_bind {α : Type} {r : Except FaultCode α} {f g : α → Except FaultCode State}
    (h : ∀ a, r = .ok a → Agree (f a) (g a)) : Agree (r >>= f) (r >>= g) := by
  cases r with
  | ok a => exact h a rfl
  | error c => rfl

theorem agree_map {α : Type} {r : Except FaultCode α} {f g : α → State}
    (h : ∀ a, r = .ok a → (f a).SameDefined (g a)) : Agree (r.map f) (r.map g) := by
  cases r with
  | ok a => exact agree_ok (h a rfl)
  | error c => rfl

theorem Agree.bind {r r' : Except FaultCode State} {f g : State → Except FaultCode State} (h : Agree r r')
    (hfg : ∀ t t', t.SameDefined t' → Agree (f t) (g t')) : Agree (r >>= f) (r' >>= g) := by
  cases r <;> cases r' <;> simp only [Agree, Except.map, reduceCtorEq, Except.ok.injEq, Except.error.injEq] at h
  · rw [h]; rfl
  · exact hfg _ _ h

theorem sameDefined_settle {s : State} {e : Bool} {r r' : Except FaultCode State} (h : Agree r r') :
    (s.defined.settle e r).SameDefined (s.settle e r') := by
  cases r <;> cases r' <;> simp only [Agree, Except.map, reduceCtorEq, Except.ok.injEq, Except.error.injEq] at h
  · exact h ▸ s.sameDefined_defined.raise _ e
  · exact h

theorem alike_complete {s : State} {r r' : Except FaultCode State} (h : Agree r r') :
    Alike (s.defined.complete r) (s.complete r') := ⟨_, _, rfl, rfl, sameDefined_settle h⟩

/-- A command that only answers, and answers the same. -/
theorem alike_answer {s : State} {r r' : Except FaultCode Word} (h : r = r') :
    Alike (s.defined.answer r) (s.answer r') :=
  alike_complete (h ▸ agree_map fun v _ => congrArg (State.setRes · v) s.sameDefined_defined)

theorem alike_event {s : State} {f : State → Except FaultCode State}
    (h : Agree (f s.countEvent.defined) (f s.countEvent)) : Alike (s.defined.event f) (s.event f) := by
  refine ⟨_, _, rfl, rfl, ?_⟩
  by_cases hf : s.fcode = .noFault
  · rw [if_pos hf, if_pos (show s.defined.fcode = .noFault from hf)]
    exact sameDefined_settle (s := s.countEvent) h
  · rw [if_neg hf, if_neg (show s.defined.fcode ≠ .noFault from hf)]
    exact s.sameDefined_defined

section
variable {s t : State}

/-- An operation that does not see the undefined part of one state takes states that differ only there to such states. -/
theorem State.SameDefined.congr (f : State → State) (hf : ∀ u : State, (f u.defined).SameDefined (f u))
    (h : s.SameDefined t) : (f s).SameDefined (f t) :=
  (hf s).symm.trans ((congrArg (fun u => (f u).defined) h).trans (hf t))

theorem State.SameDefined.setRes (h : s.SameDefined t) (v : Word) : (s.setRes v).SameDefined (t.setRes v) :=
  congrArg (State.setRes · v) h

theorem State.SameDefined.emitPairs (h : s.SameDefined t) (pairs : List TxPair) :
    (s.emitPairs pairs).SameDefined (t.emitPairs pairs) := congrArg (State.emitPairs · pairs) h

theorem State.SameDefined.writeBits {n : Nat} (h : s.SameDefined t) (x : Slot) (start : Nat) (v : BitVec n) :
    (s.writeBits x start v).SameDefined (t.writeBits x start v) :=
  h.congr (State.writeBits · x start v) fun u => u.sameDefined_writeBits x start v

/-! ### Commands that only answer -/

theorem State.needFrame_ok {x : Slot} {u : Unit} (h : s.needFrame x = .ok u) : s.valid x = true :=
  (check_eq_ok_iff _ _ _).mp h

variable (s)

/-- A computation behind a valid check may read that frame. -/
theorem State.needFrame_congr {α : Type} {x : Slot} {f g : Unit → Except FaultCode α}
    (h : s.valid x = true → f () = g ()) : (s.defined.needFrame x >>= f) = (s.needFrame x >>= g) :=
  bind_congr_ok (r := s.needFrame x) fun _ hx => h (State.needFrame_ok hx)

theorem leadMatches_defined : leadMatches s.defined = leadMatches s := by
  unfold leadMatches
  cases hv : s.cfg.variant with
  | sf =>
    simp only [State.defined_cfg, hv]
    exact s.needFrame_congr fun h => by rw [s.defined_wB h]
  | df =>
    simp only [State.defined_cfg, hv]
    exact s.needFrame_congr fun h => by rw [s.defined_wA h]

theorem State.byteB_defined (h : s.wvB = true) (k : Nat) : s.defined.byteB k = s.byteB k :=
  s.readBits_defined (x := .b) h _ _

theorem State.nibbleB_defined (h : s.wvB = true) (k j : Nat) : s.defined.nibbleB k j = s.nibbleB k j :=
  s.readBits_defined (x := .b) h _ _

theorem State.bitB_defined (h : s.wvB = true) (k i : Nat) : s.defined.bitB k i = s.bitB k i :=
  congrArg (· == 1#1) (s.readBits_defined (x := .b) h _ _)

theorem State.storedTemp_defined (h : s.wvB = true) : s.defined.storedTemp = s.storedTemp := by
  simp only [State.storedTemp, s.bitB_defined h, s.byteB_defined h]
  rfl

theorem State.storedMode_defined (h : s.wvB = true) : s.defined.storedMode = s.storedMode := by
  simp only [State.storedMode, s.nibbleB_defined h, s.byteB_defined h]
  rfl

theorem State.checksum_defined (h : s.wvB = true) : s.defined.checksum = s.checksum := by
  simp only [State.checksum, s.byteB_defined h]

theorem State.getNibble_defined {n : Nat} (v : Variant) (pat : Vector (BitVec 4) n) (k j : Nat) :
    s.defined.getNibble v pat k j = s.getNibble v pat k j :=
  bind_congr_ok (r := s.needVariant v) fun _ _ => s.needFrame_congr fun h => by rw [s.nibbleB_defined h]

/-! ### Commands that write the work frames -/

theorem State.agree_putNibble {n : Nat} (v : Variant) (arg : EnumArg) (pat : Vector (BitVec 4) n) (k j : Nat) :
    Agree (s.defined.putNibble v arg pat k j) (s.putNibble v arg pat k j) :=
  agree_bind (r := s.needVariant v) fun _ _ => agree_bind fun p _ => agree_bind (r := s.needFrame .b) fun _ _ =>
    agree_ok ((s.sameDefined_writeBits _ _ p).setRes _)

theorem State.sameDefined_storeTemp (c : Clamped) : (s.defined.storeTemp c).SameDefined (s.storeTemp c) :=
  ((s.sameDefined_writeBits _ _ _).writeBits _ _ _).writeBits _ _ _

theorem agree_setModeSF (arg : EnumArg) : Agree (setModeSF arg s.defined) (setModeSF arg s) :=
  agree_bind fun p _ => agree_bind (r := s.needFrame .b) fun _ _ => agree_ok ((s.sameDefined_writeBits _ _ p).setRes _)

theorem State.sameDefined_writeMisc (m : MiscVal) : (s.defined.writeMisc m).SameDefined (s.writeMisc m) := by
  cases m with
  | keep => exact s.sameDefined_defined
  | put bit => exact s.sameDefined_writeBits _ _ _

theorem agree_setModeDF (arg : EnumArg) : Agree (setModeDF arg s.defined) (setModeDF arg s) :=
  agree_bind fun p _ => agree_bind (r := s.needFrame .b) fun _ _ =>
    agree_ok (((s.sameDefined_writeBits _ _ p).congr (State.writeMisc · (miscOf s.cfg arg)) fun u =>
      u.sameDefined_writeMisc _).setRes _)

theorem sameDefined_newFrames : (newFrames s.defined).SameDefined (newFrames s) := by
  cases hv : s.cfg.variant with
  | sf =>
    simp only [newFrames, State.defined_cfg, hv]
    exact State.sameDefined_with { s with wB := s.cfg.sfTemplate, wvB := true } (lowBits_lowBits _ _)
      (lowBits_lowBits _ _) s.defined_wA (fun _ => rfl) s.defined_pmark
  | df =>
    simp only [newFrames, State.defined_cfg, hv]
    exact State.sameDefined_with
      { s with wA := s.cfg.dfTemplateA, wB := s.cfg.dfTemplateB, wvA := true, wvB := true } (lowBits_lowBits _ _)
      (lowBits_lowBits _ _) (fun _ => rfl) (fun _ => rfl) s.defined_pmark

theorem getD_of_isSome {α : Type} (o : Option α) (x y : α) (h : o.isSome = true) : o.getD x = o.getD y := by
  obtain ⟨a, rfl⟩ := Option.isSome_iff_exists.mp h
  rfl

/-- A popped entry overwrites the frames that it has; the valid bit of an absent one is cleared (41_synchronizer.md
R145). -/
theorem State.sameDefined_loadEntry (e : Entry) : (s.defined.loadEntry e).SameDefined (s.loadEntry e) := by
  cases hv : s.cfg.variant with
  | sf =>
    simp only [State.loadEntry, State.defined_cfg, hv]
    exact State.sameDefined_with { s with wvB := e.fb.isSome, wB := e.fb.getD s.wB } (lowBits_lowBits _ _)
      (lowBits_lowBits _ _) s.defined_wA (getD_of_isSome e.fb _ _) s.defined_pmark
  | df =>
    simp only [State.loadEntry, State.defined_cfg, hv]
    exact State.sameDefined_with
      { s with wvA := e.fa.isSome, wA := e.fa.getD s.wA, wvB := e.fb.isSome, wB := e.fb.getD s.wB }
      (lowBits_lowBits _ _) (lowBits_lowBits _ _) (getD_of_isSome e.fa _ _) (getD_of_isSome e.fb _ _) s.defined_pmark

theorem sameDefined_popEffect : (popEffect s.defined).SameDefined (popEffect s) := by
  cases ho : s.oq with
  | nil =>
    simp only [popEffect, State.defined_oq, ho]
    exact s.sameDefined_defined.setRes 0
  | cons e rest =>
    simp only [popEffect, State.defined_oq, ho]
    exact (State.sameDefined_loadEntry { s with oq := rest } e).setRes _

/-- CAPSTART's writes (41_synchronizer.md R132). -/
theorem sameDefined_captureStart :
    { s.defined.clearFault.restartSync with evcnt := 0, oq := [] }.SameDefined
      { s.clearFault.restartSync with evcnt := 0, oq := [] } :=
  congrArg (fun u : State => { u with evcnt := 0, oq := [] }) s.clearFault.sameDefined_restartSync

/-! ### Every command that is no event -/

/-- A command that is no event cannot see the undefined part. -/
theorem exec_command_defined (i : Instr) (h : effectKind i ≠ .event) : Alike (exec i s.defined) (exec i s) := by
  cases i with
  | pulse d => exact absurd rfl h
  | space d => exact absurd rfl h
  | timeout => exact absurd rfl h
  | nop => exact alike_answer rfl
  | capstart => exact alike_complete (agree_ok ((sameDefined_captureStart s).setRes 0))
  | popcmd => exact alike_complete (agree_ok (sameDefined_popEffect s))
  | chklead => exact alike_answer (by rw [leadMatches_defined])
  | clsm d => exact alike_answer rfl
  | clss d => exact alike_answer rfl
  | newf => exact alike_complete (agree_ok ((sameDefined_newFrames s).setRes 0))
  | getr f start len =>
    refine alike_answer (map_congr_ok (r := s.rangeSlot f start len) fun x hx => ?_)
    obtain ⟨-, -, hvalid, -⟩ := (s.rangeSlot_eq_ok_iff f start len x).mp hx
    rw [s.readBits_defined hvalid]
  | setr f start len data =>
    exact alike_complete (agree_map (r := s.rangeSlot f start len) fun x _ =>
      (s.sameDefined_writeBits x start _).setRes 0)
  | getb f k =>
    refine alike_answer (map_congr_ok (r := s.byteSlot f k) fun x hx => ?_)
    obtain ⟨-, hvalid, -⟩ := (s.byteSlot_eq_ok_iff f k x).mp hx
    exact congrArg (BitVec.setWidth 32) (s.readBits_defined hvalid _ _)
  | setb f k v =>
    exact alike_complete (agree_map (r := s.byteSlot f k) fun x _ => (s.sameDefined_writeBits x _ v).setRes 0)
  | settemp t2 =>
    exact alike_complete (agree_bind (r := s.needFrame .b) fun _ _ => agree_ok ((s.sameDefined_storeTemp _).setRes _))
  | gettemp => exact alike_answer (s.needFrame_congr fun hb => by rw [s.storedTemp_defined hb])
  | setmode arg =>
    refine alike_complete ?_
    cases hv : s.cfg.variant with
    | sf =>
      simp only [State.defined_cfg, hv]
      exact agree_setModeSF s arg
    | df =>
      simp only [State.defined_cfg, hv]
      exact agree_setModeDF s arg
  | getmode => exact alike_answer (s.needFrame_congr fun hb => by rw [s.storedMode_defined hb])
  | setfpwr arg => exact alike_complete (s.agree_putNibble _ _ _ _ _)
  | getfpwr => exact alike_answer (s.getNibble_defined _ _ _ _)
  | setfang arg => exact alike_complete (s.agree_putNibble _ _ _ _ _)
  | getfang => exact alike_answer (s.getNibble_defined _ _ _ _)
  | setfan arg => exact alike_complete (s.agree_putNibble _ _ _ _ _)
  | getfan => exact alike_answer (s.getNibble_defined _ _ _ _)
  | setswing arg => exact alike_complete (s.agree_putNibble _ _ _ _ _)
  | getswing => exact alike_answer (s.getNibble_defined _ _ _ _)
  | ckgen =>
    refine alike_complete (agree_bind (r := s.needFrame .b) fun _ hb => ?_)
    rw [s.checksum_defined (State.needFrame_ok hb)]
    cases hv : s.cfg.variant with
    | sf =>
      simp only [State.defined_cfg, hv]
      exact agree_ok (s.sameDefined_defined.setRes 0)
    | df =>
      simp only [State.defined_cfg, hv]
      exact agree_ok ((s.sameDefined_writeBits _ _ _).setRes _)
  | ckchk =>
    refine alike_answer (s.needFrame_congr fun hb => ?_)
    rw [s.checksum_defined hb, s.byteB_defined hb]
    rfl
  | getck =>
    refine alike_answer (s.needFrame_congr fun hb => ?_)
    simp only [s.byteB_defined hb]
    rfl
  | emit =>
    refine alike_complete ?_
    cases hv : s.cfg.variant with
    | sf =>
      simp only [State.defined_cfg, hv]
      refine agree_bind (r := s.needFrame .b) fun _ hb => ?_
      rw [s.defined_wB (State.needFrame_ok hb)]
      exact agree_ok ((s.sameDefined_defined.emitPairs _).setRes _)
    | df =>
      simp only [State.defined_cfg, hv]
      refine agree_bind (r := s.needFrame .a) fun _ ha => agree_bind (r := s.needFrame .b) fun _ hb => ?_
      rw [s.defined_wA (State.needFrame_ok ha), s.defined_wB (State.needFrame_ok hb)]
      exact agree_ok ((s.sameDefined_defined.emitPairs _).setRes _)
end

end Sys2Proof.Machine
end

section
/-! SUPPORT. Events, and the step, answer the same from a state and from its defined part; the invariant is what keeps
the buffers that are read full. -/

namespace Sys2Proof.Machine

/-! ### The buffers that a separator or a TIMEOUT reads are full -/

section
variable {s : State}

theorem State.defined_abufA (h : s.cntA = 64) : s.defined.abufA = s.abufA := by
  show lowBits s.abufA s.cntA = s.abufA
  rw [h, lowBits_self]

theorem State.defined_abufB (h : s.cntB = 152) : s.defined.abufB = s.abufB := by
  show lowBits s.abufB s.cntB = s.abufB
  rw [h, lowBits_self]

/-- In the single-frame variant the active slot is the only one. -/
theorem State.SyncInv.act_of_sf (h : s.SyncInv) (hv : s.cfg.variant = .sf) : s.act = .b := by
  rcases s.syncInv_iff.mp h with ⟨ha, -⟩ | ⟨-, hv', -⟩
  · exact ha
  · simp [hv] at hv'

/-- While frame 2 is collected, frame 1 is complete. -/
theorem State.SyncInv.cntA_of_df (h : s.SyncInv) (hv : s.cfg.variant = .df) (ha : s.act = .b) : s.cntA = 64 := by
  rcases s.syncInv_iff.mp h with ⟨-, -, -, ⟨hv', -⟩ | ⟨-, -, hc⟩⟩ | ⟨ha', -⟩
  · simp [hv] at hv'
  · exact hc
  · simp [ha] at ha'

/-- `CloseActive` answers `full` for the full length only. -/
theorem State.closeActive_eq_full (h : s.closeActive = .ok .full) : s.activeCount = frameLen s.act := by
  rcases s.closeActive_cases with ⟨-, he⟩ | ⟨hc, -⟩ | ⟨-, -, he⟩
  · simp [he] at h
  · exact hc
  · simp [he] at h

theorem State.cntA_of_full (h : s.closeActive = .ok .full) (ha : s.act = .a) : s.cntA = 64 := by
  simpa [State.activeCount, frameLen, ha] using State.closeActive_eq_full h

theorem State.cntB_of_full (h : s.closeActive = .ok .full) (ha : s.act = .b) : s.cntB = 152 := by
  simpa [State.activeCount, frameLen, ha] using State.closeActive_eq_full h

/-- The entry that a TIMEOUT flushes is read from full buffers. -/
theorem State.SyncInv.flushEntry_defined (h : s.SyncInv) {r : Closed} (hr : s.closeActive = .ok r) :
    flushEntry s.defined r = flushEntry s r := by
  cases hv : s.cfg.variant with
  | sf =>
    cases r with
    | empty => simp [flushEntry, hv]
    | full => simp [flushEntry, hv, State.defined_abufB (State.cntB_of_full hr (h.act_of_sf hv))]
  | df =>
    cases ha : s.act with
    | a =>
      cases r with
      | empty => simp [flushEntry, hv, ha]
      | full => simp [flushEntry, hv, ha, State.defined_abufA (State.cntA_of_full hr ha)]
    | b =>
      have hA := State.defined_abufA (h.cntA_of_df hv ha)
      cases r with
      | empty => simp [flushEntry, hv, ha, hA]
      | full => simp [flushEntry, hv, ha, hA, State.defined_abufB (State.cntB_of_full hr ha)]

/-! ### Events -/

variable (s)

theorem State.agree_push (e : Entry) : Agree (s.defined.push e) (s.push e) := by
  unfold State.push
  by_cases h : s.oq.length = s.cfg.oqDepth
  · rw [if_pos h, if_pos (show s.defined.oq.length = s.defined.cfg.oqDepth from h)]
    rfl
  · rw [if_neg h, if_neg (show s.defined.oq.length ≠ s.defined.cfg.oqDepth from h)]
    exact agree_ok (congrArg (fun u : State => { u with oq := u.oq ++ [e] }) s.sameDefined_defined)

theorem State.agree_pushIf (e : Option Entry) : Agree (s.defined.pushIf e) (s.pushIf e) := by
  cases e with
  | none => exact agree_ok s.sameDefined_defined
  | some e => exact s.agree_push e

theorem agree_pulseEffect (dur : Nat) : Agree (pulseEffect dur s.defined) (pulseEffect dur s) :=
  agree_bind (r := check (!s.pend) .malformed) fun _ _ => agree_bind fun mc _ => agree_ok <|
    State.sameDefined_with { s with pend := true, pmark := mc, res := BitVec.ofNat 32 mc.code } (lowBits_lowBits _ _)
      (lowBits_lowBits _ _) s.defined_wA s.defined_wB fun _ => rfl

theorem agree_bitEffect (v : Bool) : Agree (bitEffect v s.defined) (bitEffect v s) :=
  agree_bind (r := check (decide (s.sync = .inFrame)) .bitOutsideFrame) fun _ _ =>
    agree_bind (r := check (decide (s.activeCount ≠ frameLen s.act)) .frameOverflow) fun _ _ =>
      agree_ok (s.sameDefined_appendBit v)

/-- A synchronizer that leaves its frame, the active slot as it is. -/
theorem State.sameDefined_awaitNext :
    { s.defined with sync := .awaitNext }.SameDefined { s with sync := .awaitNext } :=
  congrArg (fun u : State => { u with sync := .awaitNext }) s.sameDefined_defined

/-- A frame that was queued leaves empty buffers. -/
theorem State.SameDefined.closeB {t t' : State} (h : t.SameDefined t') :
    { t with cntB := 0, sync := .awaitNext }.SameDefined { t' with cntB := 0, sync := .awaitNext } :=
  h.congr (fun u => { u with cntB := 0, sync := .awaitNext }) fun u =>
    State.sameDefined_with { u with cntB := 0, sync := .awaitNext } (lowBits_lowBits _ _) (by simp) u.defined_wA
      u.defined_wB u.defined_pmark

theorem State.SameDefined.startA {t t' : State} (h : t.SameDefined t') :
    { t with cntA := 0, cntB := 0, doneA := false, act := .a, sync := .awaitNext }.SameDefined
      { t' with cntA := 0, cntB := 0, doneA := false, act := .a, sync := .awaitNext } :=
  h.congr (fun u => { u with cntA := 0, cntB := 0, doneA := false, act := .a, sync := .awaitNext }) fun u =>
    State.sameDefined_with { u with cntA := 0, cntB := 0, doneA := false, act := .a, sync := .awaitNext } (by simp)
      (by simp) u.defined_wA u.defined_wB u.defined_pmark

theorem agree_separatorEffectSF {s : State} (h : s.SyncInv) (hv : s.cfg.variant = .sf) :
    Agree (separatorEffectSF s.defined) (separatorEffectSF s) := by
  refine agree_bind (r := s.closeActive) fun r hr => ?_
  cases r with
  | empty => exact agree_ok s.sameDefined_awaitNext
  | full =>
    rw [State.defined_abufB (State.cntB_of_full hr (h.act_of_sf hv))]
    exact (s.agree_push _).bind fun t t' ht => agree_ok ht.closeB

theorem agree_separatorEffectDF {s : State} (h : s.SyncInv) (hv : s.cfg.variant = .df) :
    Agree (separatorEffectDF s.defined) (separatorEffectDF s) := by
  refine agree_bind (r := s.closeActive) fun r hr => ?_
  cases r with
  | empty => exact agree_ok s.sameDefined_awaitNext
  | full =>
    cases ha : s.act with
    | a =>
      simp only [State.defined_act, ha]
      exact agree_ok (congrArg (fun u : State => { u with doneA := true, act := .b }) s.sameDefined_defined.closeB)
    | b =>
      simp only [State.defined_act, ha]
      rw [State.defined_abufA (h.cntA_of_df hv ha), State.defined_abufB (State.cntB_of_full hr ha)]
      exact (s.agree_push _).bind fun t t' ht => agree_ok ht.startA

theorem agree_symbolEffect {s : State} (h : s.SyncInv) (sym : PairSymbol) :
    Agree (symbolEffect sym s.defined) (symbolEffect sym s) := by
  cases sym with
  | header => exact agree_ok (congrArg (fun u : State => { u with sync := .inFrame }) s.sameDefined_defined)
  | bit v => exact agree_bitEffect s v
  | separator =>
    cases hv : s.cfg.variant with
    | sf => simpa only [symbolEffect, State.defined_cfg, hv] using agree_separatorEffectSF h hv
    | df => simpa only [symbolEffect, State.defined_cfg, hv] using agree_separatorEffectDF h hv

theorem agree_spaceEffect {s : State} (h : s.SyncInv) (dur : Nat) :
    Agree (spaceEffect dur s.defined) (spaceEffect dur s) := by
  refine agree_bind (r := check s.pend .malformed) fun _ hp => agree_bind fun sc _ => ?_
  rw [s.defined_pmark ((check_eq_ok_iff _ _ _).mp hp)]
  exact agree_bind fun sym _ => (agree_symbolEffect h sym).bind fun t t' ht => agree_ok (ht.clearPend.setRes _)

theorem agree_timeoutEffect {s : State} (h : s.SyncInv) : Agree (timeoutEffect s.defined) (timeoutEffect s) := by
  refine agree_bind (r := s.closeActive) fun r hr => ?_
  rw [h.flushEntry_defined hr]
  exact (s.agree_pushIf _).bind fun t t' ht =>
    agree_ok ((ht.congr State.restartSync fun u => u.sameDefined_restartSync).setRes _)

/-! ### Every command, and the step -/

theorem exec_defined {s : State} (h : s.SyncInv) (i : Instr) : Alike (exec i s.defined) (exec i s) := by
  have hc : s.countEvent.SyncInv := h
  cases i with
  | pulse dur => exact alike_event (agree_pulseEffect s.countEvent dur)
  | space dur => exact alike_event (agree_spaceEffect hc dur)
  | timeout => exact alike_event (agree_timeoutEffect hc)
  | _ => exact exec_command_defined s _ nofun

theorem step_defined {s : State} (h : s.SyncInv) : Alike (step s.defined) (step s) := by
  rcases step_cases s with ⟨hr, he⟩ | ⟨hr, hd, he⟩ | ⟨hr, why, rest, hd, he⟩ | ⟨hr, i, rest, hd, he⟩
  · exact ⟨_, _, step_of_reset hr, he, rfl⟩
  · exact ⟨_, _, step_of_waiting hr hd, he, s.sameDefined_defined⟩
  · exact ⟨_, _, step_of_illegal hr hd, he, (s.withPort rest).sameDefined_defined.raise _ _⟩
  · rw [he, step_of_command (s := s.defined) hr hd]
    have hp : (s.withPort rest).SyncInv := h
    exact exec_defined hp i
end

end Sys2Proof.Machine

open Sys2Proof Sys2Proof.Machine

/-- Settles O55: each of the two steps is alike to the step of the defined part, which the two states share. -/
theorem undefinedStateIsUnobservable : Obligations.UndefinedStateIsUnobservable := by
  rintro s t ⟨-, hs, -⟩ ⟨-, ht, -⟩ hst
  obtain ⟨u, s', hu, hs', hus⟩ := step_defined hs
  obtain ⟨v, t', hv, ht', hvt⟩ := step_defined ht
  obtain rfl : u = v := by simpa [hu, hv] using congrArg step hst
  have hst' : s'.SameDefined t' := hus.symm.trans hvt
  refine ⟨s', t', hs', ht', hst', fun addr => ?_⟩
  rw [← s'.readPort_defined, hst', t'.readPort_defined]
end

section
/-! SUPPORT. Which unit's state a command can change, by the kind of its effect. -/

namespace Sys2Proof.Machine

/-- What a command whose effect has the kind `k` keeps of each unit's state (10_state.md R51 to R53, R57). -/
structure UnitsKept (k : EffectKind) (s t : State) : Prop where
  cfg : t.cfg = s.cfg
  frames : k ≠ .frameWrite → k ≠ .newFrames → k ≠ .popEntry → t.wA = s.wA ∧ t.wB = s.wB
  valid : k ≠ .newFrames → k ≠ .popEntry → t.wvA = s.wvA ∧ t.wvB = s.wvB
  sync : k ≠ .event → k ≠ .captureStart →
    t.sync = s.sync ∧ t.act = s.act ∧ t.pend = s.pend ∧ t.pmark = s.pmark ∧ t.abufA = s.abufA ∧
      t.abufB = s.abufB ∧ t.cntA = s.cntA ∧ t.cntB = s.cntB ∧ t.doneA = s.doneA ∧ t.evcnt = s.evcnt
  queue : k ≠ .event → k ≠ .captureStart → k ≠ .popEntry → t.oq = s.oq
  trace : k ≠ .emission → t.tx = s.tx
  traceGrows : ∃ l, t.tx = s.tx ++ l

section
variable {s t : State} {k : EffectKind}

theorem unitsKept_refl (k : EffectKind) (s : State) : UnitsKept k s s := by
  constructor <;> simp

theorem unitsKept_raise (k : EffectKind) (s : State) (c : FaultCode) (e : Bool) : UnitsKept k s (s.raise c e) := by
  constructor <;> simp

theorem unitsKept_of_leaves (h : k.Leaves s t) : UnitsKept k s t := by
  cases k with
  | event => exact h.elim
  | answer => obtain ⟨v, rfl⟩ := h; constructor <;> simp
  | frameWrite => obtain ⟨wA, wB, v, rfl⟩ := h; constructor <;> simp
  | newFrames => cases h; constructor <;> simp
  | popEntry =>
    cases h
    unfold popEffect
    split <;> constructor <;> simp
  | captureStart => cases h; constructor <;> simp
  | emission => obtain ⟨pairs, v, rfl⟩ := h; constructor <;> simp

theorem unitsKept_of_event (h : KeepsOutside s.countEvent t) : UnitsKept .event s t := by
  unfold KeepsOutside at h
  rw [h]
  constructor <;> simp

end

theorem exec_unitsKept (i : Instr) (s : State) : ∃ t, exec i s = .next t ∧ UnitsKept (effectKind i) s t := by
  obtain ⟨t, he, rfl | hl | ⟨c, -, rfl⟩ | ⟨hk, -, ht | ⟨c, -, rfl⟩⟩⟩ := exec_cases i s
  · exact ⟨_, he, unitsKept_refl _ _⟩
  · exact ⟨t, he, unitsKept_of_leaves hl⟩
  · exact ⟨_, he, unitsKept_raise _ _ _ _⟩
  · exact ⟨t, he, hk ▸ unitsKept_of_event (eventEffect_keeps ht)⟩
  · refine ⟨_, he, hk ▸ ?_⟩
    constructor <;> simp

/-! ### The commands of each kind -/

section
variable {i : Instr}

theorem effectKind_of_not_event (h : Statements.isEvent i = false) : effectKind i ≠ .event := by
  cases i <;> simp_all [effectKind, Statements.isEvent]

theorem effectKind_of_keeps_frames (h : Statements.writesFrames i = false) :
    effectKind i ≠ .frameWrite ∧ effectKind i ≠ .newFrames ∧ effectKind i ≠ .popEntry := by
  cases i <;> simp_all [effectKind, Statements.writesFrames]

theorem effectKind_of_ne_newf (h : i ≠ .newf) : effectKind i ≠ .newFrames := by
  cases i <;> simp_all [effectKind]

theorem effectKind_of_ne_popcmd (h : i ≠ .popcmd) : effectKind i ≠ .popEntry := by
  cases i <;> simp_all [effectKind]

theorem effectKind_of_ne_capstart (h : i ≠ .capstart) : effectKind i ≠ .captureStart := by
  cases i <;> simp_all [effectKind]

theorem effectKind_of_ne_emit (h : i ≠ .emit) : effectKind i ≠ .emission := by
  cases i <;> simp_all [effectKind]

end

end Sys2Proof.Machine

open Sys2Proof Sys2Proof.Machine Sys2Proof.Statements

/-- Settles O35, by the kind of the command's effect. -/
theorem unitsKeepApart : Obligations.UnitsKeepApart := by
  intro s i
  obtain ⟨t, he, kept⟩ := exec_unitsKept i s
  refine ⟨t, he, fun h => ?_, fun hn hp => ?_, fun hev hc => ?_, fun hev hc hp => ?_, fun hm => ?_⟩
  · obtain ⟨hw, hn, hp⟩ := effectKind_of_keeps_frames h
    exact kept.frames hw hn hp
  · exact kept.valid (effectKind_of_ne_newf hn) (effectKind_of_ne_popcmd hp)
  · exact kept.sync (effectKind_of_not_event hev) (effectKind_of_ne_capstart hc)
  · exact kept.queue (effectKind_of_not_event hev) (effectKind_of_ne_capstart hc) (effectKind_of_ne_popcmd hp)
  · exact kept.trace (effectKind_of_ne_emit hm)

/-- Settles O58, by the four things a step can do. -/
theorem constantsStayAndTraceGrows : Obligations.ConstantsStayAndTraceGrows := by
  intro s
  rcases step_cases s with ⟨-, he⟩ | ⟨-, -, he⟩ | ⟨-, -, rest, -, he⟩ | ⟨-, i, rest, -, he⟩
  · exact ⟨_, he, rfl, [], by simp⟩
  · exact ⟨s, he, rfl, [], by simp⟩
  · exact ⟨_, he, by simp [State.takeIllegal], [], by simp [State.takeIllegal]⟩
  · obtain ⟨t, ht, kept⟩ := exec_unitsKept i (s.withPort rest)
    exact ⟨t, he.trans ht, kept.cfg, kept.traceGrows⟩

/-- Settles O6. -/
theorem stepRunsDecodedCommand : Obligations.StepRunsDecodedCommand := fun _ _ _ => step_of_command
end

section
/-! SUPPORT. The registers as numbers, field by field, and the port after reset. -/

namespace Sys2Proof.Machine

/-! ### Registers assembled from fields (10_state.md R58 to R60) -/

/-- The word is the number `n`, and all of its bits are below `bits`. -/
def Assembles (w : Word) (bits n : Nat) : Prop := w.toNat = n ∧ n < 2 ^ bits

/-- A field above all the others adds its value at its place. -/
theorem Assembles.field {w : Word} {bits n : Nat} (h : Assembles w bits n) {lo width v : Nat} (hv : v < 2 ^ width)
    (hlo : bits ≤ lo) (hhi : lo + width ≤ 32) : Assembles (w ||| fieldAt lo v) (lo + width) (n + 2 ^ lo * v) := by
  obtain ⟨rfl, hn⟩ := h
  have hw : w.toNat < 2 ^ lo := lt_of_lt_of_le hn (Nat.pow_le_pow_right (by decide) hlo)
  have hlt : w.toNat + 2 ^ lo * v < 2 ^ (lo + width) :=
    calc w.toNat + 2 ^ lo * v < 2 ^ lo * (v + 1) := by rw [Nat.mul_succ]; omega
      _ ≤ 2 ^ lo * 2 ^ width := Nat.mul_le_mul_left _ hv
      _ = 2 ^ (lo + width) := (Nat.pow_add _ _ _).symm
  have h32 : 2 ^ (lo + width) ≤ 2 ^ 32 := Nat.pow_le_pow_right (by decide) hhi
  have hv32 : v < 2 ^ 32 := lt_of_lt_of_le hv (Nat.pow_le_pow_right (by decide) (by omega))
  have hf : (fieldAt lo v).toNat = v <<< lo := by
    rw [fieldAt, BitVec.toNat_shiftLeft, BitVec.toNat_ofNat, Nat.mod_eq_of_lt hv32, Nat.mod_eq_of_lt]
    rw [Nat.shiftLeft_eq, Nat.mul_comm]
    omega
  refine ⟨?_, hlt⟩
  rw [BitVec.toNat_or, hf, Nat.or_comm, ← Nat.shiftLeft_add_eq_or_of_lt hw, Nat.shiftLeft_eq, Nat.mul_comm, Nat.add_comm]

theorem assembles_fieldAt {lo width v : Nat} (hv : v < 2 ^ width) (hhi : lo + width ≤ 32) :
    Assembles (fieldAt lo v) (lo + width) (2 ^ lo * v) := by
  have h : Assembles 0 0 0 := ⟨rfl, by decide⟩
  simpa using h.field hv (Nat.zero_le lo) hhi

/-- No bit stands above the fields. -/
theorem Assembles.getLsbD_above {w : Word} {bits n i : Nat} (h : Assembles w bits n) (hi : bits ≤ i) :
    w.getLsbD i = false := by
  obtain ⟨rfl, hn⟩ := h
  exact Nat.testBit_lt_two_pow (lt_of_lt_of_le hn (Nat.pow_le_pow_right (by decide) hi))

theorem SyncState.code_eq (x : SyncState) :
    x.code = if x = .awaitHeader then 0 else if x = .inFrame then 1 else 2 := by cases x <;> rfl

theorem Slot.code_eq (x : Slot) : x.code = if x = .a then 0 else 1 := by cases x <;> rfl

theorem State.shownPmark_eq (s : State) :
    s.shownPmark = if s.pend = true ∧ s.pmark = .headerMark then 1 else 0 := by
  cases hp : s.pend <;> cases hm : s.pmark <;> simp [State.shownPmark, MarkClass.code, hp, hm]

theorem State.activeCount_eq (s : State) : s.activeCount = if s.act = .a then s.cntA else s.cntB := by
  cases ha : s.act <;> simp [State.activeCount, ha]

theorem State.faultOut_toNat (s : State) : s.faultOut.toNat = if s.fcode = .noFault then 0 else 1 := by
  by_cases h : s.fcode = .noFault <;> simp [State.faultOut, h]

theorem FaultCode.code_lt (c : FaultCode) : c.code < 2 ^ 4 := by cases c <;> decide

/-- STATUS below FLT (10_state.md R59). -/
theorem State.status_assembles (s : State) : ∃ w, s.status = w ||| fieldAt 31 s.faultOut.toNat ∧
    Assembles w 28 (s.sync.code + 2 ^ 2 * s.act.code + 2 ^ 3 * s.pend.toNat + 2 ^ 4 * s.shownPmark +
      2 ^ 5 * s.doneA.toNat + 2 ^ 6 * s.wvA.toNat + 2 ^ 7 * s.wvB.toNat + 2 ^ 8 * (s.activeCount % 256) +
      2 ^ 16 * (s.oq.length % 16) + 2 ^ 24 * s.fcode.code) := by
  refine ⟨_, rfl, ?_⟩
  have hsync : s.sync.code < 2 ^ 2 := by cases s.sync <;> decide
  have hact : s.act.code < 2 ^ 1 := by cases s.act <;> decide
  have hmark : s.shownPmark < 2 ^ 1 := by rw [s.shownPmark_eq]; split <;> decide
  have hcount : s.activeCount % 256 < 2 ^ 8 := Nat.mod_lt _ (by decide)
  have hlen : s.oq.length % 16 < 2 ^ 4 := Nat.mod_lt _ (by decide)
  have hflag (b : Bool) : b.toNat < 2 ^ 1 := b.toNat_lt
  have h0 := assembles_fieldAt (lo := 0) hsync (by decide)
  rw [Nat.pow_zero, Nat.one_mul] at h0
  exact ((((((((h0.field hact (by decide) (by decide)).field (hflag s.pend) (by decide) (by decide)).field hmark
    (by decide) (by decide)).field (hflag s.doneA) (by decide) (by decide)).field (hflag s.wvA) (by decide)
    (by decide)).field (hflag s.wvB) (by decide) (by decide)).field hcount (by decide) (by decide)).field hlen
    (by decide) (by decide)).field s.fcode.code_lt (by decide) (by decide)

/-- FAULT_O is bit 31 of STATUS (10_state.md R61). -/
theorem State.status_getLsbD_31 (s : State) : s.status.getLsbD 31 = s.faultOut := by
  obtain ⟨w, hs, hw⟩ := s.status_assembles
  rw [hs, BitVec.getLsbD_or, hw.getLsbD_above (by decide), Bool.false_or]
  cases s.faultOut <;> decide

theorem State.status_toNat {s : State} (h : s.Inv) :
    s.status.toNat =
      (if s.sync = .awaitHeader then 0 else if s.sync = .inFrame then 1 else 2) +
        4 * (if s.act = .a then 0 else 1) + 8 * s.pend.toNat +
        16 * (if s.pend = true ∧ s.pmark = .headerMark then 1 else 0) + 32 * s.doneA.toNat + 64 * s.wvA.toNat +
        128 * s.wvB.toNat + 256 * (if s.act = .a then s.cntA else s.cntB) + 65536 * s.oq.length +
        16777216 * s.fcode.code + 2147483648 * (if s.fcode = .noFault then 0 else 1) := by
  obtain ⟨⟨-, ⟨-, hdepth⟩, -⟩, ⟨-, -, -, hA, hB, -⟩, ⟨hlen, -⟩, -, -⟩ := h
  have hcount : s.activeCount % 256 = s.activeCount := by
    rw [s.activeCount_eq]; split <;> exact Nat.mod_eq_of_lt (by omega)
  have hq : s.oq.length % 16 = s.oq.length := Nat.mod_eq_of_lt (by omega)
  obtain ⟨w, hs, hw⟩ := s.status_assembles
  have hall := (hw.field (v := s.faultOut.toNat) s.faultOut.toNat_lt (lo := 31) (width := 1) (by decide) (by decide)).1
  rw [hs, hall, hcount, hq, SyncState.code_eq, Slot.code_eq, s.shownPmark_eq, s.activeCount_eq, s.faultOut_toNat]
  simp only [Nat.reducePow]

theorem configRegister_toNat {c : Config} (h : c.Ok) :
    (configRegister c).toNat =
      (if c.variant = .df then 1 else 0) + 16 * c.oqDepth + 256 * 152 +
        65536 * (if c.variant = .df then 64 else 0) := by
  obtain ⟨-, ⟨-, hdepth⟩, -⟩ := h
  have hd : c.oqDepth % 16 = c.oqDepth := Nat.mod_eq_of_lt (by omega)
  have hlt : c.oqDepth < 2 ^ 4 := by omega
  have hB : 152 < 2 ^ 8 := by decide
  cases hv : c.variant with
  | sf =>
    have hreg := ((assembles_fieldAt (lo := 4) hlt (by decide)).field (lo := 8) hB (by decide) (by decide)).1
    simp only [configRegister, hv, hd, hreg]
    simp
  | df =>
    have hreg := ((((assembles_fieldAt (lo := 0) (width := 1) (v := 1) (by decide) (by decide)).field (lo := 4) hlt
      (by decide) (by decide)).field (lo := 8) hB (by decide) (by decide)).field (lo := 16) (width := 8) (v := 64)
      (by decide) (by decide) (by decide)).1
    simp only [configRegister, hv, hd, hreg]
    simp

/-! ### Reset: the first slot and the port (70_reset_and_hazards.md R280) -/

theorem firstSlot_eq (v : Variant) : firstSlot v = if v = .df then .a else .b := by cases v <;> rfl

theorem opField_eq_setr_iff (w : Word) : opField w = Opcode.setr.bits ↔ w.toNat / 2 ^ 26 = 0x12 := by
  have hw := w.isLt
  rw [← BitVec.toNat_inj, opField, BitVec.extractLsb'_toNat, Nat.shiftRight_eq_div_pow]
  show w.toNat / 2 ^ 26 % 2 ^ 6 = 0x12 ↔ _
  omega

/-- Reset leaves the whole commands, and looks on behind them. -/
theorem abandonPartial_wholeCommands {parts : List (List Word)} (h : ∀ p ∈ parts, Statements.WholeCommand p)
    (tail : List Word) : abandonPartial (parts.flatten ++ tail) = parts.flatten ++ abandonPartial tail := by
  induction parts with
  | nil => rfl
  | cons p parts ih =>
    have hrest := ih fun q hq => h q (List.mem_cons_of_mem _ hq)
    rcases h p List.mem_cons_self with ⟨w, hw, rfl⟩ | ⟨w, data, hw, rfl⟩
    · have hop : opField w ≠ Opcode.setr.bits := fun he => hw ((opField_eq_setr_iff w).mp he)
      simpa using (abandonPartial_other _ hop).trans (congrArg (w :: ·) hrest)
    · have hop := (opField_eq_setr_iff w).mpr hw
      simpa using (abandonPartial_setr data _ hop).trans (congrArg (w :: data :: ·) hrest)

end Sys2Proof.Machine

open Sys2Proof Sys2Proof.Machine

/-- Settles O59. -/
theorem readPortShowsRegisters : Obligations.ReadPortShowsRegisters := by
  intro s h
  exact ⟨State.status_toNat h, rfl, rfl, rfl, configRegister_toNat h.1, rfl, rfl, rfl, s.status_getLsbD_31.symm⟩

/-- Settles O60: the reset values, and the port by induction on its whole commands. -/
theorem resetGivesStatedValues : Obligations.ResetGivesStatedValues := by
  refine ⟨fun s hr => ⟨_, step_of_reset hr, ?_, rfl, rfl, fun parts hp => ⟨fun h => ?_, fun w hw h => ?_⟩⟩, ?_, rfl⟩
  · exact ⟨rfl, firstSlot_eq _, rfl, rfl, rfl, rfl, rfl, rfl, rfl, rfl, rfl, rfl, rfl, rfl⟩
  · simpa [h] using abandonPartial_wholeCommands hp []
  · have hop := (opField_eq_setr_iff w).mpr hw
    simpa [h, abandonPartial_lone_setr hop] using abandonPartial_wholeCommands hp [w]
  · exact ⟨rfl, firstSlot_eq _, rfl, rfl, rfl, rfl, rfl, rfl, rfl, rfl, rfl, rfl, rfl, rfl⟩
end

section
/-! SUPPORT. Commands that change nothing when they are repeated: what a check reads is not written behind it, a write
of fixed bits is idempotent, and an answer reads neither RES nor the fault record (20_memory.md R81). -/

namespace Sys2Proof.Machine

/-! ### Writes of fixed bits -/

/-- A write of some bits of a word, always the same bits with the same values. -/
def WritesFixedBits {l : Nat} (g : BitVec l → BitVec l) : Prop :=
  ∃ kept bits : BitVec l, ∀ w, g w = (w &&& kept) ||| bits

theorem writesFixedBits_id {l : Nat} : WritesFixedBits (id : BitVec l → BitVec l) :=
  ⟨BitVec.allOnes l, 0#l, by simp⟩

theorem writesFixedBits_withSlice {l n : Nat} (start : Nat) (v : BitVec n) :
    WritesFixedBits fun w : BitVec l => withSlice w start v := ⟨_, _, fun _ => rfl⟩

theorem WritesFixedBits.comp {l : Nat} {g g' : BitVec l → BitVec l} (hg : WritesFixedBits g)
    (hg' : WritesFixedBits g') : WritesFixedBits (g ∘ g') := by
  obtain ⟨kept, bits, hg⟩ := hg
  obtain ⟨kept', bits', hg'⟩ := hg'
  refine ⟨kept' &&& kept, (bits' &&& kept) ||| bits, fun w => BitVec.eq_of_getLsbD_eq fun i _ => ?_⟩
  simp only [Function.comp_apply, hg, hg', BitVec.getLsbD_or, BitVec.getLsbD_and, Bool.and_or_distrib_right,
    Bool.and_assoc, Bool.or_assoc]

theorem WritesFixedBits.idem {l : Nat} {g : BitVec l → BitVec l} (hg : WritesFixedBits g) (w : BitVec l) :
    g (g w) = g w := by
  obtain ⟨kept, bits, hg⟩ := hg
  refine BitVec.eq_of_getLsbD_eq fun i _ => ?_
  simp only [hg, BitVec.getLsbD_or, BitVec.getLsbD_and]
  cases w.getLsbD i <;> cases kept.getLsbD i <;> simp

/-- An operation that writes fixed bits of the work frames, and nothing else. -/
def OverwritesFrames (o : State → State) : Prop :=
  ∃ gA gB, WritesFixedBits gA ∧ WritesFixedBits gB ∧ ∀ s, o s = { s with wA := gA s.wA, wB := gB s.wB }

theorem overwritesFrames_id : OverwritesFrames id :=
  ⟨id, id, writesFixedBits_id, writesFixedBits_id, fun _ => rfl⟩

theorem overwritesFrames_writeBits {n : Nat} (x : Slot) (start : Nat) (v : BitVec n) :
    OverwritesFrames (State.writeBits · x start v) := by
  cases x with
  | a => exact ⟨_, id, writesFixedBits_withSlice start v, writesFixedBits_id, fun _ => rfl⟩
  | b => exact ⟨id, _, writesFixedBits_id, writesFixedBits_withSlice start v, fun _ => rfl⟩

theorem OverwritesFrames.comp {o o' : State → State} (h : OverwritesFrames o) (h' : OverwritesFrames o') :
    OverwritesFrames (o ∘ o') := by
  obtain ⟨gA, gB, hA, hB, ho⟩ := h
  obtain ⟨gA', gB', hA', hB', ho'⟩ := h'
  exact ⟨gA ∘ gA', gB ∘ gB', hA.comp hA', hB.comp hB', fun s => by simp only [Function.comp_apply, ho, ho']⟩

/-- The write repeated behind a write of RES changes nothing. -/
theorem OverwritesFrames.setRes_idem {o : State → State} (h : OverwritesFrames o) (s : State) (v : Word) :
    (o ((o s).setRes v)).setRes v = (o s).setRes v := by
  obtain ⟨gA, gB, hA, hB, ho⟩ := h
  simp only [ho, State.setRes, hA.idem, hB.idem]

/-! ### What the checks of a command read -/

/-- States with the same constants and valid bits: no check of a command that writes the frames in part tells them
apart. -/
structure SameChecks (s t : State) : Prop where
  cfg : t.cfg = s.cfg
  wvA : t.wvA = s.wvA
  wvB : t.wvB = s.wvB

section
variable {s t : State}

theorem sameChecks_refl (s : State) : SameChecks s s := ⟨rfl, rfl, rfl⟩

theorem sameChecks_raise (c : FaultCode) (e : Bool) : SameChecks s (s.raise c e) := by
  constructor <;> simp

theorem OverwritesFrames.sameChecks {o : State → State} (h : OverwritesFrames o) (v : Word) :
    SameChecks s ((o s).setRes v) := by
  obtain ⟨gA, gB, -, -, ho⟩ := h
  rw [ho]
  exact ⟨rfl, rfl, rfl⟩

theorem SameChecks.valid (h : SameChecks s t) (x : Slot) : t.valid x = s.valid x := by
  cases x with
  | a => exact h.wvA
  | b => exact h.wvB

theorem SameChecks.needVariant (h : SameChecks s t) (v : Variant) : t.needVariant v = s.needVariant v := by
  rw [State.needVariant, State.needVariant, h.cfg]

theorem SameChecks.needFrame (h : SameChecks s t) (x : Slot) : t.needFrame x = s.needFrame x := by
  rw [State.needFrame, State.needFrame, h.valid]

theorem SameChecks.select (h : SameChecks s t) (f : BitVec 2) : t.select f = s.select f := by
  simp only [State.select, h.cfg, h.valid]

theorem SameChecks.rangeSlot (h : SameChecks s t) (f : BitVec 2) (start len : Nat) :
    t.rangeSlot f start len = s.rangeSlot f start len := by
  simp only [State.rangeSlot, h.select]

theorem SameChecks.byteSlot (h : SameChecks s t) (f : BitVec 2) (k : Nat) : t.byteSlot f k = s.byteSlot f k := by
  simp only [State.byteSlot, h.select, h.cfg]

end

/-! ### Effects that a repetition does not change -/

/-- Where the effect answers at `s`, it answers the same again; where it faults, it faults the same again. -/
structure Repeats (f : State → Except FaultCode State) (s : State) : Prop where
  ok : ∀ t, f s = .ok t → SameChecks s t ∧ f t = .ok t
  error : ∀ c, f s = .error c → f (s.raise c false) = .error c

section
variable {s : State}

theorem State.raise_raise (s : State) (c : FaultCode) : (s.raise c false).raise c false = s.raise c false := by
  by_cases h : s.fcode = .noFault
  · rw [s.raise_of_noFault c false h]
    exact ite_self _
  · rw [s.raise_of_fault c false h, s.raise_of_fault c false h]

theorem exec_idem_of_repeats {i : Instr} {f : State → Except FaultCode State}
    (he : ∀ u, exec i u = u.complete (f u)) (h : Repeats f s) : ∃ t, exec i s = .next t ∧ exec i t = .next t := by
  cases hr : f s with
  | ok t =>
    refine ⟨t, ?_, ?_⟩
    · rw [he, hr]; rfl
    · rw [he, (h.ok t hr).2]; rfl
  | error c =>
    refine ⟨s.raise c false, ?_, ?_⟩
    · rw [he, hr]; rfl
    · rw [he, h.error c hr]
      exact congrArg _ (s.raise_raise c)

/-- An effect may be replaced by one that agrees with it where the checks do not tell the state from `s`. -/
theorem Repeats.congr {f g : State → Except FaultCode State} (h : Repeats g s)
    (hfg : ∀ u, SameChecks s u → f u = g u) : Repeats f s where
  ok t ht := by
    obtain ⟨hc, hg⟩ := h.ok t ((hfg s (sameChecks_refl s)).symm.trans ht)
    exact ⟨hc, (hfg t hc).trans hg⟩
  error c hc := (hfg _ (sameChecks_raise c false)).trans (h.error c ((hfg s (sameChecks_refl s)).symm.trans hc))

theorem repeats_error (c : FaultCode) : Repeats (fun _ => .error c) s where
  ok _ h := nomatch h
  error _ h := h

theorem repeats_ok {w : State → State} (hc : SameChecks s (w s)) (hw : w (w s) = w s) :
    Repeats (fun u => .ok (w u)) s where
  ok t ht := by
    cases ht
    exact ⟨hc, congrArg Except.ok hw⟩
  error _ h := nomatch h

/-- A check that reads the constants and the valid bits alone, before an effect. -/
theorem repeats_bind {α : Type} {chk : State → Except FaultCode α} {f : α → State → Except FaultCode State}
    (hchk : ∀ t, SameChecks s t → chk t = chk s) (hf : ∀ a, Repeats (f a) s) :
    Repeats (fun u => chk u >>= (f · u)) s := by
  cases hs : chk s with
  | ok a => exact (hf a).congr fun t ht => by rw [hchk t ht, hs]; rfl
  | error c => exact (repeats_error c).congr fun t ht => by rw [hchk t ht, hs]; rfl

theorem repeats_needFrame {f : State → Except FaultCode State} (x : Slot) (hf : Repeats f s) :
    Repeats (fun u => u.needFrame x >>= fun _ => f u) s :=
  repeats_bind (chk := (State.needFrame · x)) (fun _ h => h.needFrame x) fun _ => hf

theorem repeats_resolveEnum {w n : Nat} {f : BitVec w → State → Except FaultCode State} (arg : EnumArg)
    (pat : Config → Vector (BitVec w) n) (hf : ∀ p, Repeats (f p) s) :
    Repeats (fun u => resolveEnum arg (pat u.cfg) >>= (f · u)) s :=
  repeats_bind (chk := fun u => resolveEnum arg (pat u.cfg)) (fun _ h => by rw [h.cfg]) hf

theorem repeats_overwrite {o : State → State} (ho : OverwritesFrames o) (v : Word) :
    Repeats (fun u => .ok ((o u).setRes v)) s :=
  repeats_ok (ho.sameChecks v) (ho.setRes_idem s v)

theorem repeats_slotWrite {n : Nat} {slot : State → Except FaultCode Slot} {start : Config → Nat} {v : BitVec n}
    (hslot : ∀ t, SameChecks s t → slot t = slot s) :
    Repeats (fun u => (slot u).map fun x => (u.writeBits x (start u.cfg) v).setRes 0) s :=
  (repeats_bind hslot fun x => repeats_overwrite (overwritesFrames_writeBits x (start s.cfg) v) 0).congr
    fun u hu => by rw [hu.cfg]; rfl

/-- An answer that reads neither RES nor the fault record is the same after it. -/
theorem repeats_answer {r : State → Except FaultCode Word}
    (hr : ∀ v c p, r { s with res := v, fcode := c, fpos := p } = r s) :
    Repeats (fun u => (r u).map u.setRes) s where
  ok t ht := by
    cases h : r s with
    | ok v =>
      rw [h] at ht
      cases ht
      have hv : r (s.setRes v) = .ok v := (hr v s.fcode s.fpos).trans h
      exact ⟨⟨rfl, rfl, rfl⟩, by rw [hv]; rfl⟩
    | error c => rw [h] at ht; cases ht
  error c hc := by
    cases h : r s with
    | ok v => rw [h] at hc; cases hc
    | error d =>
      rw [h] at hc
      cases hc
      have hraise : r (s.raise c false) = .error c := by
        unfold State.raise
        split
        · exact (hr _ _ _).trans h
        · exact h
      rw [hraise]
      rfl

theorem exec_idem_of_answer {i : Instr} {r : State → Except FaultCode Word} (he : ∀ u, exec i u = u.answer (r u))
    (hr : ∀ v c p, r { s with res := v, fcode := c, fpos := p } = r s) :
    ∃ t, exec i s = .next t ∧ exec i t = .next t :=
  exec_idem_of_repeats he (repeats_answer hr)

/-! ### The commands that write the work frames -/

variable (s)

theorem State.repeats_putNibble {n : Nat} (v : Variant) (arg : EnumArg) (pat : Config → Vector (BitVec 4) n)
    (k j : Config → Nat) : Repeats (fun u => u.putNibble v arg (pat u.cfg) (k u.cfg) (j u.cfg)) s :=
  repeats_bind (chk := (State.needVariant · v)) (fun _ h => h.needVariant v) fun _ =>
    repeats_resolveEnum arg pat fun p => repeats_needFrame .b
      ((repeats_overwrite (overwritesFrames_writeBits .b (nibbleStart s.cfg.variant (k s.cfg) (j s.cfg)) p)
        (p.setWidth 32)).congr fun u hu => by rw [State.setNibbleB_eq, hu.cfg]; rfl)

theorem State.storeTemp_eq (c : Clamped) : s.storeTemp c =
    ((s.writeBits .b (byteStart s.cfg.variant (tempFields s.cfg).tempByte)
      (tempByteOf s.cfg.variant (c.t2c / 2))).writeBits .b
        (byteStart s.cfg.variant (tempFields s.cfg).tmodByte + (tempFields s.cfg).halfBit)
        (BitVec.ofBool (halfOf c))).writeBits .b
          (byteStart s.cfg.variant (tempFields s.cfg).tmodByte + (tempFields s.cfg).limitBit)
          (BitVec.ofBool c.limit) := rfl

theorem repeats_storeTemp (c : Clamped) (v : Word) : Repeats (fun u => .ok ((u.storeTemp c).setRes v)) s :=
  (repeats_overwrite (((overwritesFrames_writeBits .b _ _).comp (overwritesFrames_writeBits .b _ _)).comp
    (overwritesFrames_writeBits .b _ _)) v).congr fun u hu => by rw [State.storeTemp_eq, hu.cfg]; rfl

theorem repeats_setModeSF (arg : EnumArg) : Repeats (setModeSF arg) s :=
  repeats_resolveEnum arg (·.sfModePat) fun p => repeats_needFrame .b
    ((repeats_overwrite (overwritesFrames_writeBits .b (byteStart s.cfg.variant s.cfg.sf.modeByte) p)
      (p.setWidth 32)).congr fun u hu => by rw [State.setByteB_eq, hu.cfg]; rfl)

/-- The mode nibble, and behind it the misc bit that the operand puts or keeps (43_fields.md R200): where a layout lets
them meet, the misc bit is the later write both times. -/
theorem repeats_setModeDF (arg : EnumArg) : Repeats (setModeDF arg) s := by
  refine repeats_resolveEnum arg (·.dfModePat) fun p => repeats_needFrame .b ?_
  have hmode := overwritesFrames_writeBits .b
    (nibbleStart s.cfg.variant s.cfg.df.modeByte s.cfg.df.modeNibble) p
  cases hm : miscOf s.cfg arg with
  | keep =>
    exact (repeats_overwrite hmode (p.setWidth 32)).congr fun u hu => by
      rw [State.setNibbleB_eq, hu.cfg, hm]; rfl
  | put bit =>
    have hmisc := overwritesFrames_writeBits .b (byteStart s.cfg.variant s.cfg.df.miscByte + s.cfg.df.miscBit)
      (BitVec.ofBool bit)
    exact (repeats_overwrite (hmisc.comp hmode) (p.setWidth 32)).congr fun u hu => by
      rw [State.setNibbleB_eq, hu.cfg, hm]
      simp only [State.writeMisc, State.setBitB_eq, State.writeBits_cfg, hu.cfg]
      rfl

/-- The checksum byte is none of the bytes that the checksum covers. -/
theorem State.checksum_writeBits_ckByte (hv : s.cfg.variant = .df) (v : BitVec 8) (r : Word) :
    ((s.setByteB ckByte v).setRes r).checksum = s.checksum := by
  unfold State.checksum
  congr 2
  refine List.map_congr_left fun k hk => ?_
  have hk : k < 1 + 18 := (List.mem_range'_1.mp hk).2
  have hbelow : byteStart s.cfg.variant k + 8 ≤ byteStart s.cfg.variant ckByte := by
    simp only [byteStart, hv, ckByte]
    omega
  have hbyte : ((s.setByteB ckByte v).setRes r).byteB k = s.byteB k :=
    s.readBits_writeBits_of_disjoint .b _ _ v (.inl hbelow)
  rw [hbyte]

theorem repeats_ckgen_df (hv : s.cfg.variant = .df) :
    Repeats (fun u => .ok ((u.setByteB ckByte u.checksum).setRes (checksumResult u.checksum))) s := by
  have ho := overwritesFrames_writeBits .b (byteStart s.cfg.variant ckByte) s.checksum
  refine repeats_ok (ho.sameChecks _) ?_
  rw [s.checksum_writeBits_ckByte hv]
  exact ho.setRes_idem s _

/-! ### Every command that is no event -/

theorem newFrames_setRes_newFrames (v : Word) :
    (newFrames ((newFrames s).setRes v)).setRes v = (newFrames s).setRes v := by
  cases hv : s.cfg.variant <;> simp [newFrames, State.setRes, hv]

/-- A command that is no event, POPCMD and EMIT aside, changes nothing when it is repeated. -/
theorem exec_idem (i : Instr) (hev : effectKind i ≠ .event) (hpop : i ≠ .popcmd) (hemit : i ≠ .emit) :
    ∃ t, exec i s = .next t ∧ exec i t = .next t := by
  cases i with
  | pulse d | space d | timeout => exact absurd rfl hev
  | popcmd => exact absurd rfl hpop
  | emit => exact absurd rfl hemit
  | capstart => exact ⟨_, rfl, rfl⟩
  | newf => exact ⟨_, rfl, congrArg Host.Outcome.next (newFrames_setRes_newFrames s 0)⟩
  | nop | chklead | clsm d | clss d | getr f start len | getb f k | gettemp | getmode | getfpwr | getfang | getfan
  | getswing | ckchk | getck => exact exec_idem_of_answer (fun _ => rfl) fun _ _ _ => rfl
  | setr f start len data =>
    exact exec_idem_of_repeats (fun _ => rfl)
      (repeats_slotWrite (start := fun _ => start) fun _ h => h.rangeSlot f start len)
  | setb f k v =>
    exact exec_idem_of_repeats (fun _ => rfl)
      (repeats_slotWrite (start := fun c => byteStart c.variant k) fun _ h => h.byteSlot f k)
  | settemp t2 =>
    exact exec_idem_of_repeats (fun _ => rfl) (repeats_needFrame .b (repeats_storeTemp s _ _))
  | setmode arg =>
    refine exec_idem_of_repeats (fun _ => rfl) ?_
    cases hv : s.cfg.variant with
    | sf => exact (repeats_setModeSF s arg).congr fun u hu => by rw [hu.cfg, hv]
    | df => exact (repeats_setModeDF s arg).congr fun u hu => by rw [hu.cfg, hv]
  | setfpwr arg =>
    exact exec_idem_of_repeats (fun _ => rfl) (s.repeats_putNibble _ _ (·.sfPwrPat) (·.sf.fanByte) fun _ => 1)
  | setfang arg =>
    exact exec_idem_of_repeats (fun _ => rfl) (s.repeats_putNibble _ _ (·.sfAngPat) (·.sf.fanByte) fun _ => 0)
  | setfan arg =>
    exact exec_idem_of_repeats (fun _ => rfl) (s.repeats_putNibble _ _ (·.dfFanPat) (·.df.fsByte) fanNibble)
  | setswing arg =>
    exact exec_idem_of_repeats (fun _ => rfl)
      (s.repeats_putNibble _ _ (·.dfSwingPat) (·.df.fsByte) (·.df.swingNibble))
  | ckgen =>
    refine exec_idem_of_repeats (fun _ => rfl) (repeats_needFrame .b ?_)
    cases hv : s.cfg.variant with
    | sf => exact (repeats_overwrite overwritesFrames_id 0).congr fun u hu => by rw [hu.cfg, hv]; rfl
    | df => exact (repeats_ckgen_df s hv).congr fun u hu => by rw [hu.cfg, hv]; rfl

end

/-! ### Commands that only answer -/

theorem effectKind_eq_answer {i : Instr} (hev : effectKind i ≠ .event) (hw : Statements.writesFrames i = false)
    (hcap : i ≠ .capstart) (hemit : i ≠ .emit) : effectKind i = .answer := by
  cases i <;> simp_all [effectKind, Statements.writesFrames]

/-- A command that only answers changes RES, or the fault record. -/
theorem exec_answer_keeps {i : Instr} {s t : State} (hk : effectKind i = .answer) (ht : exec i s = .next t) :
    t = { s with res := t.res, fcode := t.fcode, fpos := t.fpos } := by
  rcases exec_command_cases i s (by rw [hk]; decide) with ⟨u, hu, hl⟩ | ⟨c, -, hu⟩
  · rw [hk] at hl
    obtain ⟨v, rfl⟩ := hl
    cases ht.symm.trans hu
    rfl
  · cases ht.symm.trans hu
    unfold State.raise
    split <;> rfl

end Sys2Proof.Machine

open Sys2Proof.Machine

/-- Settles O34: the repetition command by command, and what is kept by the kind of the command's effect. -/
theorem repeatedCommandChangesNothing : Obligations.RepeatedCommandChangesNothing := by
  intro s i hev hpop hemit
  have hk := effectKind_of_not_event hev
  obtain ⟨t, ht, hagain⟩ := exec_idem s i hk hpop hemit
  exact ⟨t, ht, hagain, fun hw hcap => exec_answer_keeps (effectKind_eq_answer hk hw hcap hemit) ht⟩
end

section
/-! SUPPORT. The decoder read backwards: a word whose reserved bits are zero is put together again from its fields, so
the words that a command is decoded from are the words that encode it. -/

namespace Sys2Proof

/-! ### Words as the sum of their fields (30_encoding.md R90, R91) -/

/-- A field put back at its place keeps the word's bits there, and no others. -/
theorem fieldBits_extractLsb' (lo n : Nat) (w : Word) :
    fieldBits lo (w.extractLsb' lo n) = w &&& fieldBits lo (BitVec.allOnes n) := by
  refine BitVec.eq_of_getElem_eq fun i hi => ?_
  rw [BitVec.getElem_and, fieldBits_getElem lo _ i hi, fieldBits_getElem lo _ i hi, BitVec.getLsbD_extractLsb',
    BitVec.getLsbD_allOnes]
  by_cases hlo : i < lo
  · simp [hlo]
  · simp [hlo, Nat.add_sub_cancel' (Nat.le_of_not_lt hlo), BitVec.getLsbD_eq_getElem hi, Bool.and_comm]

@[simp] theorem fieldBits_zero (lo n : Nat) : fieldBits lo 0#n = 0#32 := by simp [fieldBits]

theorem fieldBits_opField (w : Word) : fieldBits 26 (opField w) = w &&& 0xFC000000 := fieldBits_extractLsb' 26 6 w

theorem fieldBits_fField (w : Word) : fieldBits 24 (fField w) = w &&& 0x03000000 := fieldBits_extractLsb' 24 2 w

theorem fieldBits_rField (w : Word) : fieldBits 25 (rField w) = w &&& 0x02000000 := fieldBits_extractLsb' 25 1 w

theorem fieldBits_idxField (w : Word) : fieldBits 16 (idxField w) = w &&& 0x00FF0000 := fieldBits_extractLsb' 16 8 w

theorem fieldBits_lenField (w : Word) : fieldBits 8 (lenField w) = w &&& 0x00003F00 := fieldBits_extractLsb' 8 6 w

theorem fieldBits_valField (w : Word) : fieldBits 0 (valField w) = w &&& 0x000000FF := fieldBits_extractLsb' 0 8 w

theorem fieldBits_durField (w : Word) : fieldBits 0 (durField w) = w &&& 0x00FFFFFF := fieldBits_extractLsb' 0 24 w

/-- The fields of a format cover every bit that is not reserved. -/
theorem and_fields_eq_self {w reserved fields : Word} (hz : w &&& reserved = 0)
    (hcover : reserved ||| fields = BitVec.allOnes 32) : w &&& fields = w := by
  calc w &&& fields = (w &&& reserved) ||| (w &&& fields) := by rw [hz]; simp
    _ = w &&& (reserved ||| fields) := BitVec.and_or_distrib_left.symm
    _ = w := by rw [hcover, BitVec.and_allOnes]

section
variable {op : Opcode} {w : Word} (hop : opField w = op.bits)
include hop

theorem wordN_of_reserved (hz : w &&& 0x03FFFFFF = 0) : wordN op = w := by
  rw [wordN, ← hop, fieldBits_opField]
  exact and_fields_eq_self hz (by decide)

theorem wordD_of_reserved (hz : w &&& 0x03000000 = 0) : wordD op (durField w).toNat = w := by
  rw [wordD, ← hop, BitVec.ofNat_toNat, BitVec.setWidth_eq, fieldBits_opField, fieldBits_durField,
    ← BitVec.and_or_distrib_left]
  exact and_fields_eq_self hz (by decide)

/-- F and IDX with the opcode are the high half of a format A word. -/
theorem wordA_eq_high_half (len : Nat) (val : BitVec 8) :
    wordA op (fField w) (idxField w).toNat len val =
      (w &&& 0xFFFF0000) ||| fieldBits 8 (BitVec.ofNat 6 len) ||| fieldBits 0 val := by
  simp only [wordA, ← hop, BitVec.ofNat_toNat, BitVec.setWidth_eq, fieldBits_opField, fieldBits_fField,
    fieldBits_idxField, ← BitVec.and_or_distrib_left]
  rfl

theorem wordA_range_of_reserved (hz : w &&& 0x0000C0FF = 0) :
    wordA op (fField w) (idxField w).toNat (lenField w).toNat 0 = w := by
  simp only [wordA_eq_high_half hop, BitVec.ofNat_toNat, BitVec.setWidth_eq, fieldBits_lenField,
    BitVec.ofNat_eq_ofNat, fieldBits_zero, BitVec.or_zero, ← BitVec.and_or_distrib_left]
  exact and_fields_eq_self hz (by decide)

theorem wordA_getb_of_reserved (hz : w &&& 0x0000FFFF = 0) :
    wordA op (fField w) (idxField w).toNat 0 0 = w := by
  simp only [wordA_eq_high_half hop, BitVec.ofNat_eq_ofNat, fieldBits_zero, BitVec.or_zero]
  exact and_fields_eq_self hz (by decide)

theorem wordA_setb_of_reserved (hz : w &&& 0x0000FF00 = 0) :
    wordA op (fField w) (idxField w).toNat 0 (valField w) = w := by
  rw [wordA_eq_high_half hop, fieldBits_zero, BitVec.or_zero, fieldBits_valField, ← BitVec.and_or_distrib_left]
  exact and_fields_eq_self hz (by decide)

theorem wordV_settemp_of_reserved (hz : w &&& 0x03FFFF00 = 0) :
    wordV op 0 (BitVec.ofNat 8 (valField w).toNat) = w := by
  simp only [wordV, ← hop, BitVec.ofNat_toNat, BitVec.setWidth_eq, fieldBits_opField, fieldBits_valField,
    BitVec.ofNat_eq_ofNat, fieldBits_zero, BitVec.or_zero, ← BitVec.and_or_distrib_left]
  exact and_fields_eq_self hz (by decide)

theorem wordV_of_reserved (hz : w &&& 0x01FFFF00 = 0) : wordV op (rField w) (valField w) = w := by
  simp only [wordV, ← hop, fieldBits_opField, fieldBits_rField, fieldBits_valField, ← BitVec.and_or_distrib_left]
  exact and_fields_eq_self hz (by decide)

/-- R chooses between the named value and the raw code, and both keep VAL (30_encoding.md R94). -/
theorem wordEnum_of_reserved (hz : w &&& 0x01FFFF00 = 0) : wordEnum op (enumField w) = w := by
  have hword : wordEnum op (enumField w) = wordV op (rField w) (valField w) := by
    by_cases hr : rField w = 0
    · simp [enumField, wordEnum, hr]
    · have hr1 : rField w = 1 := by
        simpa using (BitVec.eq_zero_or_eq_one (rField w)).resolve_left hr
      simp [enumField, wordEnum, hr1]
  rw [hword, wordV_of_reserved hop hz]

end

/-! ### The words of a command (30_encoding.md R93) -/

/-- The words that a command word takes, by its opcode. -/
def commandWords (op : Opcode) (w data : Word) : List Word := w :: if op = .setr then [data] else []

@[simp] theorem commandWords_setr (w data : Word) : commandWords .setr w data = [w, data] := rfl

theorem commandWords_of_ne_setr {op : Opcode} (hne : op ≠ .setr) (w data : Word) : commandWords op w data = [w] := by
  simp [commandWords, hne]

/-- Encoding the operands of a legal command word gives the word back, SETR's data word behind it. -/
theorem encode_operandsOf {op : Opcode} {w : Word} (data : Word) (hop : opField w = op.bits)
    (hz : w &&& op.zeroMask = 0) : encode (operandsOf op w data) = commandWords op w data := by
  cases op with
  | pulse | space | clsm | clss => exact congrArg ([·]) (wordD_of_reserved hop hz)
  | getr => exact congrArg ([·]) (wordA_range_of_reserved hop hz)
  | setr => exact congrArg ([·, data]) (wordA_range_of_reserved hop hz)
  | getb => exact congrArg ([·]) (wordA_getb_of_reserved hop hz)
  | setb => exact congrArg ([·]) (wordA_setb_of_reserved hop hz)
  | settemp => exact congrArg ([·]) (wordV_settemp_of_reserved hop hz)
  | setmode | setfpwr | setfang | setfan | setswing => exact congrArg ([·]) (wordEnum_of_reserved hop hz)
  | nop | capstart | timeout | popcmd | chklead | newf | gettemp | getmode | getfpwr | getfang | getfan | getswing
  | ckgen | ckchk | getck | emit => exact congrArg ([·]) (wordN_of_reserved hop hz)

theorem EnumArg.fits_enumField (w : Word) : (enumField w).fits = true := by
  unfold enumField
  split
  · simpa [EnumArg.fits, valFits] using (valField w).isLt
  · rfl

/-- An operand read from a field fits the field. -/
theorem wellFormed_operandsOf (op : Opcode) (w data : Word) : (operandsOf op w data).wellFormed = true := by
  have hdur : durFits (durField w).toNat = true := decide_eq_true (durField w).isLt
  have hidx : idxFits (idxField w).toNat = true := decide_eq_true (idxField w).isLt
  have hlen : lenFits (lenField w).toNat = true := decide_eq_true (lenField w).isLt
  have hval : valFits (valField w).toNat = true := decide_eq_true (valField w).isLt
  cases op with
  | pulse | space | clsm | clss => exact hdur
  | getr | setr => exact Bool.and_eq_true_iff.mpr ⟨hidx, hlen⟩
  | getb | setb => exact hidx
  | settemp => exact hval
  | setmode | setfpwr | setfang | setfan | setswing => exact EnumArg.fits_enumField w
  | nop | capstart | timeout | popcmd | chklead | newf | gettemp | getmode | getfpwr | getfang | getfan | getswing
  | ckgen | ckchk | getck | emit => rfl

@[simp] theorem opcode_operandsOf (op : Opcode) (w data : Word) : (operandsOf op w data).opcode = op := by
  cases op <;> rfl

/-! ### What the decoder answers -/

theorem Opcode.bits_of_ofBits {b : BitVec 6} {op : Opcode} (h : Opcode.ofBits b = some op) : b = op.bits := by
  unfold Opcode.ofBits at h
  have hfound := List.find?_some h
  exact (beq_iff_eq.mp hfound).symm

theorem Opcode.ofBits_eq_none {b : BitVec 6} (h : ∀ op : Opcode, op.bits ≠ b) : Opcode.ofBits b = none := by
  cases hb : Opcode.ofBits b with
  | none => rfl
  | some op => exact absurd (Opcode.bits_of_ofBits hb).symm (h op)

theorem decode_of_reserved_opcode {w : Word} (rest : List Word) (h : Opcode.ofBits (opField w) = none) :
    decode (w :: rest) = .illegal .reservedOpcode rest := by
  simp [decode, h]

theorem decode_lone_setr {w : Word} (hop : opField w = Opcode.setr.bits) : decode [w] = .waiting := by
  simp only [decode, hop, Opcode.ofBits_bits]

/-- Only SETR reads the data word. -/
theorem decodeAs_of_ne_setr {op : Opcode} (hne : op ≠ .setr) (w data : Word) (rest : List Word) :
    decodeAs op w data rest = decodeAs op w 0 rest := by
  have hops : operandsOf op w data = operandsOf op w 0 := by
    cases op with
    | setr => exact absurd rfl hne
    | _ => rfl
  rw [decodeAs, decodeAs, hops]

theorem decodeAs_illegal {op : Opcode} {w : Word} (data : Word) (rest : List Word) (h : w &&& op.zeroMask ≠ 0) :
    decodeAs op w data rest = .illegal .nonzeroReserved rest := if_neg h

theorem decodeAs_eq_command {op : Opcode} {w data : Word} {left rest : List Word} {i : Instr}
    (h : decodeAs op w data left = .command i rest) :
    w &&& op.zeroMask = 0 ∧ i = operandsOf op w data ∧ left = rest := by
  by_cases hz : w &&& op.zeroMask = 0
  · obtain ⟨rfl, rfl⟩ := Decoded.command.inj ((decodeAs_command op w data left hz).symm.trans h)
    exact ⟨hz, rfl, rfl⟩
  · cases (decodeAs_illegal data left hz).symm.trans h

/-- With all its words on the port, a command word decodes as its opcode says. -/
theorem decode_commandWords {op : Opcode} {w : Word} (data : Word) (rest : List Word) (hop : opField w = op.bits) :
    decode (commandWords op w data ++ rest) = decodeAs op w data rest := by
  by_cases hs : op = .setr
  · subst hs
    exact decode_setr w data rest hop
  · rw [commandWords_of_ne_setr hs, decodeAs_of_ne_setr hs]
    exact decode_one_word op w rest hop hs

/-- What a decoded command was: a word of its opcode with zero reserved bits, its operands read from the words taken. -/
theorem decode_eq_command {ws : List Word} {i : Instr} {rest : List Word} (h : decode ws = .command i rest) :
    ∃ op w data, opField w = op.bits ∧ w &&& op.zeroMask = 0 ∧ i = operandsOf op w data ∧
      ws = commandWords op w data ++ rest := by
  cases ws with
  | nil => cases h
  | cons w left =>
    cases hb : Opcode.ofBits (opField w) with
    | none => cases (decode_of_reserved_opcode left hb).symm.trans h
    | some op =>
      have hop := Opcode.bits_of_ofBits hb
      by_cases hs : op = .setr
      · subst hs
        cases left with
        | nil => cases (decode_lone_setr hop).symm.trans h
        | cons data left =>
          obtain ⟨hz, hi, rfl⟩ := decodeAs_eq_command ((decode_setr w data left hop).symm.trans h)
          exact ⟨.setr, w, data, hop, hz, hi, rfl⟩
      · obtain ⟨hz, hi, rfl⟩ := decodeAs_eq_command ((decode_one_word op w left hop hs).symm.trans h)
        exact ⟨op, w, 0, hop, hz, hi, by rw [commandWords_of_ne_setr hs]; rfl⟩

/-! ### The opcode table's rows (30_encoding.md R95) -/

theorem opField_eq_bits_iff (w : Word) (op : Opcode) : opField w = op.bits ↔ w &&& 0xFC000000 = wordN op := by
  rw [← fieldBits_opField]
  refine ⟨fun h => by rw [h, wordN], fun h => ?_⟩
  have hread : opField (fieldBits 26 (opField w)) = opField w := by
    rw [fieldBits_opField, opField, BitVec.extractLsb'_and]
    exact BitVec.and_allOnes
  rw [← hread, h, opField_wordN]

/-- A row's mask covers the opcode and the bits that must be zero; its match is the opcode. -/
theorem opcodeRows_eq : ∀ row ∈ Statements.opcodeRows,
    row.1 = wordN row.2.2 ∧ row.2.1 = 0xFC000000 ||| row.2.2.zeroMask := by decide

/-- A word has a row's fixed bits exactly where its opcode is the row's and its reserved bits are zero. -/
theorem and_fixedBits_iff (w : Word) (op : Opcode) :
    w &&& (0xFC000000 ||| op.zeroMask) = wordN op ↔ opField w = op.bits ∧ w &&& op.zeroMask = 0 := by
  rw [opField_eq_bits_iff]
  constructor
  · intro h
    have hop : (0xFC000000 ||| op.zeroMask) &&& 0xFC000000 = 0xFC000000 ∧ wordN op &&& 0xFC000000 = wordN op := by
      cases op <;> decide
    have hzero : (0xFC000000 ||| op.zeroMask) &&& op.zeroMask = op.zeroMask ∧ wordN op &&& op.zeroMask = 0 := by
      cases op <;> decide
    have hhigh := congrArg (· &&& 0xFC000000) h
    have hlow := congrArg (· &&& op.zeroMask) h
    simp only [BitVec.and_assoc, hop, hzero] at hhigh hlow
    exact ⟨hhigh, hlow⟩
  · rintro ⟨hop, hz⟩
    rw [BitVec.and_or_distrib_left, hop, hz, BitVec.ofNat_eq_ofNat, BitVec.or_zero]

/-- With a second word behind it, a word decodes to a command of an opcode exactly where it is a legal word of it. -/
theorem decode_pair_command_iff (op : Opcode) (w data : Word) :
    (∃ i rest, decode [w, data] = .command i rest ∧ i.opcode = op) ↔
      opField w = op.bits ∧ w &&& op.zeroMask = 0 := by
  constructor
  · rintro ⟨i, rest, hd, rfl⟩
    obtain ⟨op, v, d, hop, hz, rfl, hws⟩ := decode_eq_command hd
    obtain ⟨rfl, -⟩ := List.cons.inj hws
    rw [opcode_operandsOf]
    exact ⟨hop, hz⟩
  · rintro ⟨hop, hz⟩
    obtain ⟨rest, hrest⟩ : ∃ rest, [w, data] = commandWords op w data ++ rest := by
      by_cases hs : op = .setr
      · exact ⟨[], by rw [hs]; rfl⟩
      · exact ⟨[data], by rw [commandWords_of_ne_setr hs]; rfl⟩
    exact ⟨operandsOf op w data, rest, by rw [hrest, decode_commandWords data rest hop, decodeAs_command _ _ _ _ hz],
      opcode_operandsOf op w data⟩

/-! ### Reserved opcodes (30_encoding.md R96) -/

theorem toNat_opField (w : Word) : (opField w).toNat = w.toNat / 2 ^ 26 := by
  have hw := w.isLt
  rw [opField, BitVec.extractLsb'_toNat, Nat.shiftRight_eq_div_pow]
  exact Nat.mod_eq_of_lt (by omega)

theorem ofBits_opField_of_reservedOpcode {w : Word} (h : Statements.reservedOpcode w) :
    Opcode.ofBits (opField w) = none := by
  refine Opcode.ofBits_eq_none fun op hop => ?_
  rw [Statements.reservedOpcode, ← toNat_opField, ← hop] at h
  revert h
  cases op <;> decide

end Sys2Proof

namespace Sys2Proof.Laws.RoundTrip

theorem every_command (i : Instr) : Statement i := by
  cases i with
  | nop => exact nop
  | capstart => exact capstart
  | pulse dur => exact pulse dur
  | space dur => exact space dur
  | timeout => exact timeout
  | popcmd => exact popcmd
  | chklead => exact chklead
  | clsm dur => exact clsm dur
  | clss dur => exact clss dur
  | newf => exact newf
  | getr f start len => exact getr f start len
  | setr f start len data => exact setr f start len data
  | getb f k => exact getb f k
  | setb f k v => exact setb f k v
  | settemp t2 => exact settemp t2
  | gettemp => exact gettemp
  | setmode arg => exact setmode arg
  | getmode => exact getmode
  | setfpwr arg => exact setfpwr arg
  | getfpwr => exact getfpwr
  | setfang arg => exact setfang arg
  | getfang => exact getfang
  | setfan arg => exact setfan arg
  | getfan => exact getfan
  | setswing arg => exact setswing arg
  | getswing => exact getswing
  | ckgen => exact ckgen
  | ckchk => exact ckchk
  | getck => exact getck
  | emit => exact emit

end Sys2Proof.Laws.RoundTrip

namespace Sys2Proof.Machine

/-- Taking an illegal word records ILLEGAL_COMMAND with FPOS 0 and leaves the words after it
(60_exceptions.md R262). -/
theorem State.takeIllegal_eq_afterFault (s : State) (rest : List Word) :
    s.takeIllegal rest = Statements.afterFault { s with port := rest } .illegalCommand := rfl

theorem step_of_illegal_words {s : State} {op : Opcode} {w : Word} (data : Word) {rest : List Word}
    (hr : s.resetIn = false) (hop : opField w = op.bits) (hz : w &&& op.zeroMask ≠ 0)
    (hport : s.port = commandWords op w data ++ rest) :
    step s = .next (Statements.afterFault { s with port := rest } .illegalCommand) := by
  have hd : decode s.port = .illegal .nonzeroReserved rest := by
    rw [hport, decode_commandWords data rest hop, decodeAs_illegal data rest hz]
  rw [step_of_illegal hr hd, State.takeIllegal_eq_afterFault]

end Sys2Proof.Machine

open Sys2Proof Sys2Proof.Machine

/-- Settles O1: the round trip command by command. -/
theorem decodeOfEncode : Obligations.DecodeOfEncode := fun i rest hwf => Laws.RoundTrip.every_command i hwf rest

/-- Settles O2: a decoded command is the operands of a legal word, and encoding those gives the word back. -/
theorem encodeOfDecode : Obligations.EncodeOfDecode := by
  intro ws i rest h
  obtain ⟨op, w, data, hop, hz, rfl, rfl⟩ := decode_eq_command h
  exact ⟨wellFormed_operandsOf op w data, by rw [encode_operandsOf data hop hz]⟩

/-- Settles O3. -/
theorem opcodeTableRowsDecode : Obligations.OpcodeTableRowsDecode := by
  intro row hrow w data
  obtain ⟨hmatch, hmask⟩ := opcodeRows_eq row hrow
  rw [hmatch, hmask, and_fixedBits_iff, decode_pair_command_iff]

/-- Settles O4. -/
theorem reservedOpcodeFaults : Obligations.ReservedOpcodeFaults := by
  intro s w rest hr hport hres
  have hd : decode s.port = .illegal .reservedOpcode rest := by
    rw [hport, decode_of_reserved_opcode rest (ofBits_opField_of_reservedOpcode hres)]
  rw [step_of_illegal hr hd, State.takeIllegal_eq_afterFault]

/-- Settles O5: the word has the row's opcode, so it is one of its reserved bits that is not zero. -/
theorem nonzeroReservedFieldFaults : Obligations.NonzeroReservedFieldFaults := by
  intro s w rest hr row hrow hopcode hfixed
  obtain ⟨hmatch, hmask⟩ := opcodeRows_eq row hrow
  have hop : opField w = row.2.2.bits := (opField_eq_bits_iff w row.2.2).mpr (hopcode.trans hmatch)
  have hz : w &&& row.2.2.zeroMask ≠ 0 := fun hz =>
    hfixed (by rw [hmatch, hmask]; exact (and_fixedBits_iff w row.2.2).mpr ⟨hop, hz⟩)
  refine ⟨fun hne hport => ?_, fun hs data hport => ?_⟩
  · exact step_of_illegal_words 0 hr hop hz (by rw [hport, commandWords_of_ne_setr hne]; rfl)
  · exact step_of_illegal_words data hr hop hz (by rw [hport, hs]; rfl)

/-- Settles O7. -/
theorem blockWaitsForWholeCommand : Obligations.BlockWaitsForWholeCommand := by
  rintro s hr (hport | ⟨w, hw, hport⟩)
  · exact step_of_waiting hr (by rw [hport]; rfl)
  · exact step_of_waiting hr (by rw [hport, decode_lone_setr ((opField_eq_setr_iff w).mpr hw)])

/-- Settles O8: six fixed words, decoded. -/
theorem sampleWordsDecode : Obligations.SampleWordsDecode := by
  unfold Obligations.SampleWordsDecode; decide
end

section
/-! SUPPORT. The classifier: nearness orders the references by their distance and, at the same distance, by their size,
and `nearest` answers the least pair of its table. -/

namespace Sys2Proof.Machine

open Sys2Proof.Statements

/-! ### The order of nearness (40_classifier.md R111) -/

theorem absDiff_eq_gap (a b : Nat) : absDiff a b = gap a b := by
  unfold absDiff gap
  split <;> omega

@[simp] theorem gap_self (a : Nat) : gap a a = 0 := by simp [gap]

theorem gap_eq_zero_iff (a b : Nat) : gap a b = 0 ↔ b = a := by
  unfold gap
  omega

/-- What `Nearest` compares the references by: the distance first, then the reference itself. -/
def nearKey (d r : Nat) : Nat ×ₗ Nat := toLex (gap d r, r)

theorem nearKey_le_iff (d a b : Nat) :
    nearKey d a ≤ nearKey d b ↔ gap d a < gap d b ∨ gap d a = gap d b ∧ a ≤ b := Prod.Lex.toLex_le_toLex

theorem nearKey_le_iff_le_and (d a b : Nat) :
    nearKey d a ≤ nearKey d b ↔ gap d a ≤ gap d b ∧ (gap d a = gap d b → a ≤ b) := Prod.Lex.le_iff'

theorem nearKey_lt_iff (d a b : Nat) :
    nearKey d a < nearKey d b ↔ gap d a < gap d b ∨ gap d a = gap d b ∧ a < b := Prod.Lex.toLex_lt_toLex

theorem gap_le_of_nearKey_le {d a b : Nat} (h : nearKey d a ≤ nearKey d b) : gap d a ≤ gap d b :=
  ((nearKey_le_iff_le_and d a b).mp h).1

section
variable {κ : Type} (d : Nat)

theorem nearer_eq_ite (best other : κ × Nat) :
    nearer d best other = if nearKey d best.2 ≤ nearKey d other.2 then best else other := by
  simp only [nearer, absDiff_eq_gap, ← nearKey_lt_iff]
  simp only [← not_le, ite_not]

theorem nearer_mem (best other : κ × Nat) : nearer d best other ∈ [best, other] := by
  rw [nearer_eq_ite]
  split <;> simp

theorem nearKey_nearer_le (best other : κ × Nat) :
    nearKey d (nearer d best other).2 ≤ nearKey d best.2 ∧ nearKey d (nearer d best other).2 ≤ nearKey d other.2 := by
  rw [nearer_eq_ite]
  split
  next h => exact ⟨le_rfl, h⟩
  next h => exact ⟨(not_le.mp h).le, le_rfl⟩

/-! ### `nearest` is the least pair of its table -/

@[simp] theorem nearest_nil (first : κ × Nat) : nearest d first [] = first := rfl

@[simp] theorem nearest_cons (first other : κ × Nat) (others : List (κ × Nat)) :
    nearest d first (other :: others) = nearest d (nearer d first other) others := rfl

theorem nearest_mem (first : κ × Nat) (others : List (κ × Nat)) : nearest d first others ∈ first :: others := by
  induction others generalizing first with
  | nil => exact List.mem_singleton.mpr rfl
  | cons other others ih =>
    rcases List.mem_cons.mp (ih (nearer d first other)) with hhead | htail
    · rw [nearest_cons, hhead]
      exact List.mem_append_left others (nearer_mem d first other)
    · exact List.mem_cons_of_mem _ (List.mem_cons_of_mem _ htail)

theorem nearKey_nearest_le (first : κ × Nat) (others : List (κ × Nat)) :
    ∀ e ∈ first :: others, nearKey d (nearest d first others).2 ≤ nearKey d e.2 := by
  induction others generalizing first with
  | nil => simp
  | cons other others ih =>
    obtain ⟨hhead, htail⟩ := List.forall_mem_cons.mp (ih (nearer d first other))
    obtain ⟨hfirst, hother⟩ := nearKey_nearer_le d first other
    exact List.forall_mem_cons.mpr
      ⟨hhead.trans hfirst, List.forall_mem_cons.mpr ⟨hhead.trans hother, htail⟩⟩

/-- The nearest reference is beyond a distance exactly where every reference is. -/
theorem lt_gap_nearest_iff (m : Nat) (first : κ × Nat) (others : List (κ × Nat)) :
    m < gap d (nearest d first others).2 ↔ ∀ e ∈ first :: others, m < gap d e.2 :=
  ⟨fun h e he => h.trans_le (gap_le_of_nearKey_le (nearKey_nearest_le d first others e he)),
    fun h => h _ (nearest_mem d first others)⟩

end

/-- At a reference of a table without equal references, `nearest` answers that reference's own pair. -/
theorem nearest_of_mem {κ : Type} {first e : κ × Nat} {others : List (κ × Nat)}
    (hnodup : ((first :: others).map Prod.snd).Nodup) (he : e ∈ first :: others) :
    nearest e.2 first others = e := by
  have hgap : gap e.2 (nearest e.2 first others).2 ≤ gap e.2 e.2 :=
    gap_le_of_nearKey_le (nearKey_nearest_le e.2 first others e he)
  rw [gap_self, Nat.le_zero, gap_eq_zero_iff] at hgap
  exact List.inj_on_of_nodup_map hnodup (nearest_mem e.2 first others) he hgap

/-! ### The tolerance (40_classifier.md R112) -/

theorem withinTolerance_eq_ite {κ : Type} (c : Config) (d : Nat) (hit : κ × Nat) :
    withinTolerance c d hit = if c.variant = .df ∧ c.delta < gap d hit.2 then none else some hit.1 := by
  cases hv : c.variant with
  | sf => simp [withinTolerance, hv]
  | df => simp only [withinTolerance, hv, absDiff_eq_gap, true_and, ← not_le, ite_not]

theorem withinTolerance_nearest_of_mem {κ : Type} (c : Config) {first e : κ × Nat} {others : List (κ × Nat)}
    (hnodup : ((first :: others).map Prod.snd).Nodup) (he : e ∈ first :: others) :
    withinTolerance c e.2 (nearest e.2 first others) = some e.1 := by
  rw [nearest_of_mem hnodup he, withinTolerance_eq_ite, gap_self, if_neg fun h => Nat.not_lt_zero _ h.2]

theorem withinTolerance_ne_none_of_sf {κ : Type} {c : Config} (hv : c.variant = .sf) (d : Nat) (hit : κ × Nat) :
    withinTolerance c d hit ≠ none := by simp [withinTolerance, hv]

/-! ### The two classifiers (40_classifier.md R113, R114) -/

/-- The mark classifier's table. -/
def markTable (c : Config) : List (MarkClass × Nat) := [(.mark, c.refMark), (.headerMark, c.refHdrMark)]

/-- The space classifier's table behind its first pair. -/
def spaceTableRest (c : Config) : List (SpaceClass × Nat) :=
  [(.long, c.refLong), (.separator, c.refSep), (.headerSpace, c.refHdrSpace)]

/-- The space classifier's table. -/
def spaceTable (c : Config) : List (SpaceClass × Nat) := (.short, c.refShort) :: spaceTableRest c

/-- The pair that the space classifier hits. -/
def nearestSpace (c : Config) (d : Nat) : SpaceClass × Nat := nearest d (.short, c.refShort) (spaceTableRest c)

theorem classMark_of_mem {c : Config} (h : c.RefsOk) {e : MarkClass × Nat} (he : e ∈ markTable c) :
    classMark c e.2 = some e.1 := by
  obtain ⟨hmarks, -, -⟩ := h
  exact withinTolerance_nearest_of_mem c (by simpa using hmarks) he

theorem classSpace_of_mem {c : Config} (h : c.RefsOk) {e : SpaceClass × Nat} (he : e ∈ spaceTable c) :
    classSpace c e.2 = some e.1 := by
  obtain ⟨-, hspaces, -⟩ := h
  have hperm : [c.refShort, c.refLong, c.refHdrSpace, c.refSep].Perm ((spaceTable c).map Prod.snd) :=
    .cons _ (.cons _ (.swap _ _ _))
  exact withinTolerance_nearest_of_mem c (hperm.nodup hspaces) he

theorem classMark_eq_ite (c : Config) (d : Nat) :
    classMark c d =
      if c.variant = .df ∧ c.delta < gap d c.refMark ∧ c.delta < gap d c.refHdrMark then none
      else some (if nearKey d c.refMark ≤ nearKey d c.refHdrMark then .mark else .headerMark) := by
  have hclass : (nearest d (.mark, c.refMark) [(.headerMark, c.refHdrMark)]).1 =
      if nearKey d c.refMark ≤ nearKey d c.refHdrMark then MarkClass.mark else .headerMark := by
    rw [nearest_cons, nearest_nil, nearer_eq_ite, apply_ite Prod.fst]
  simp only [classMark, withinTolerance_eq_ite, lt_gap_nearest_iff, hclass, List.forall_mem_cons, List.not_mem_nil,
    false_imp_iff, implies_true, and_true]

theorem classSpace_eq_ite (c : Config) (d : Nat) :
    classSpace c d =
      if c.variant = .df ∧ ∀ e ∈ spaceTable c, c.delta < gap d e.2 then none else some (nearestSpace c d).1 := by
  simp only [spaceTable, ← lt_gap_nearest_iff]
  exact withinTolerance_eq_ite c d (nearestSpace c d)

/-! ### CLSM and CLSS (40_classifier.md R117, R118) -/

theorem exec_clsm (s : State) (d : Nat) :
    exec (.clsm d) s = .next { s with res := classCode ((classMark s.cfg d).map MarkClass.code) } := rfl

theorem exec_clss (s : State) (d : Nat) :
    exec (.clss d) s = .next { s with res := classCode ((classSpace s.cfg d).map SpaceClass.code) } := rfl

/-- The space references, each at the place of its class's code (40_classifier.md R110). -/
def spaceRefs (c : Config) : List Nat := [c.refShort, c.refLong, c.refSep, c.refHdrSpace]

theorem spaceTable_map_snd (c : Config) : (spaceTable c).map Prod.snd = spaceRefs c := rfl

theorem spaceRefs_getElem?_code {c : Config} {e : SpaceClass × Nat} (he : e ∈ spaceTable c) :
    (spaceRefs c)[e.1.code]? = some e.2 := by
  simp only [spaceTable, spaceTableRest, List.mem_cons, List.not_mem_nil, or_false] at he
  rcases he with rfl | rfl | rfl | rfl <;> rfl

theorem classCode_space_ne_seven (k : SpaceClass) : classCode (some k.code) ≠ 7 := by cases k <;> decide

theorem classCode_space_eq_seven_iff (k : Option SpaceClass) : classCode (k.map SpaceClass.code) = 7 ↔ k = none := by
  cases k with
  | none => exact iff_of_true rfl rfl
  | some k => exact iff_of_false (classCode_space_ne_seven k) (Option.some_ne_none k)

/-- The class hit is at the place of its code, and its reference comes before every other. -/
theorem nearestSpace_code (c : Config) (d : Nat) :
    ∃ h : (nearestSpace c d).1.code < (spaceRefs c).length,
      ∀ r ∈ spaceRefs c, nearKey d (spaceRefs c)[(nearestSpace c d).1.code] ≤ nearKey d r := by
  obtain ⟨h, href⟩ := List.getElem?_eq_some_iff.mp (spaceRefs_getElem?_code (nearest_mem d _ (spaceTableRest c)))
  refine ⟨h, fun r hr => ?_⟩
  obtain ⟨e, he, rfl⟩ := List.mem_map.mp (spaceTable_map_snd c ▸ hr)
  calc nearKey d (spaceRefs c)[(nearestSpace c d).1.code]
      = nearKey d (nearestSpace c d).2 := congrArg (nearKey d) href
    _ ≤ nearKey d e.2 := nearKey_nearest_le d _ (spaceTableRest c) e he

end Sys2Proof.Machine

open Sys2Proof Sys2Proof.Machine Sys2Proof.Statements

/-- Settles O9: `nearest` answers a pair of the table whose key is least. -/
theorem nearestIsClosestThenSmallest : Obligations.NearestIsClosestThenSmallest := fun _ d first others =>
  ⟨nearest_mem d first others, fun e he => (nearKey_le_iff_le_and d _ e.2).mp (nearKey_nearest_le d first others e he)⟩

/-- Settles O10: a reference is at distance 0 from itself alone, because the references differ. -/
theorem referencesClassifyToTheirClass : Obligations.ReferencesClassifyToTheirClass := by
  rintro c ⟨hrefs, -⟩
  have hmark : ∀ e ∈ markTable c, classMark c e.2 = some e.1 := fun _ => classMark_of_mem hrefs
  have hspace : ∀ e ∈ spaceTable c, classSpace c e.2 = some e.1 := fun _ => classSpace_of_mem hrefs
  simp only [markTable, spaceTable, spaceTableRest, List.forall_mem_cons] at hmark hspace
  obtain ⟨hm, hhm, -⟩ := hmark
  obtain ⟨hsh, hlo, hse, hhs, -⟩ := hspace
  exact ⟨⟨hm, hhm, hsh, hlo, hse, hhs⟩, fun hv d =>
    ⟨withinTolerance_ne_none_of_sf hv d _, withinTolerance_ne_none_of_sf hv d _⟩⟩

/-- Settles O11. -/
theorem clsmAnswersNearestClass : Obligations.ClsmAnswersNearestClass := by
  intro s d
  rw [exec_clsm, classMark_eq_ite]
  simp only [nearKey_le_iff]
  congr 2
  split
  · rfl
  · split <;> rfl

/-- Settles O12: the code is 7 where the classifier answers no class, else it is the place of the nearest reference. -/
theorem clssAnswersNearestClass : Obligations.ClssAnswersNearestClass := by
  intro s d
  refine ⟨_, exec_clss s d, ?_⟩
  have hnone : classSpace s.cfg d = none ↔ s.cfg.variant = .df ∧ ∀ r ∈ spaceRefs s.cfg, s.cfg.delta < gap d r := by
    rw [classSpace_eq_ite, ← spaceTable_map_snd, List.forall_mem_map]
    simp
  refine ⟨(classCode_space_eq_seven_iff _).trans hnone, fun hne => ?_⟩
  have hsome : classSpace s.cfg d = some (nearestSpace s.cfg d).1 := by
    rw [classSpace_eq_ite] at hne ⊢
    split at hne
    · exact absurd rfl hne
    · next h => rw [if_neg h]
  obtain ⟨hlt, hle⟩ := nearestSpace_code s.cfg d
  exact ⟨_, hlt, by rw [hsome]; rfl, fun r hr => (nearKey_le_iff_le_and d _ r).mp (hle r hr)⟩
end

section
/-! SUPPORT. A command that is no event does not see the fault record: from a state and from the state with the record
cleared it does the same, up to the record (41_synchronizer.md R136). -/

namespace Sys2Proof.Machine

/-! ### Effects that do not see the fault record -/

/-- The effect faults the same with and without a recorded fault, or leaves states that differ in the record alone. -/
def FaultBlind (f : State → Except FaultCode State) : Prop :=
  ∀ s : State, (f s.clearFault).map State.clearFault = (f s).map State.clearFault

theorem faultBlind_ok {w : State → State} (hw : ∀ s, (w s.clearFault).clearFault = (w s).clearFault) :
    FaultBlind fun s => .ok (w s) := fun s => congrArg Except.ok (hw s)

/-- A check that does not see the fault record, before an effect. -/
theorem faultBlind_bind {α : Type} {chk : State → Except FaultCode α} {f : α → State → Except FaultCode State}
    (hchk : ∀ s, chk s.clearFault = chk s) (hf : ∀ a, FaultBlind (f a)) : FaultBlind fun s => chk s >>= (f · s) := by
  intro s
  simp only [hchk]
  cases chk s with
  | ok a => exact hf a s
  | error c => rfl

theorem faultBlind_needFrame {f : State → Except FaultCode State} (x : Slot) (hf : FaultBlind f) :
    FaultBlind fun s => s.needFrame x >>= fun _ => f s :=
  faultBlind_bind (chk := (State.needFrame · x)) (fun _ => by cases x <;> rfl) fun _ => hf

theorem State.writeBits_clearFault {n : Nat} (s : State) (x : Slot) (start : Nat) (v : BitVec n) :
    s.clearFault.writeBits x start v = (s.writeBits x start v).clearFault := by cases x <;> rfl

theorem faultBlind_slotWrite {n : Nat} {slot : State → Except FaultCode Slot} {start : State → Nat} {v : BitVec n}
    (hslot : ∀ s, slot s.clearFault = slot s) (hstart : ∀ s, start s.clearFault = start s) :
    FaultBlind fun s => (slot s).map fun x => (s.writeBits x (start s) v).setRes 0 := by
  intro s
  simp only [hslot, hstart, State.writeBits_clearFault]
  cases slot s <;> rfl

theorem faultBlind_putNibble {n : Nat} (v : Variant) (arg : EnumArg) (pat : Config → Vector (BitVec 4) n)
    (k j : Config → Nat) : FaultBlind fun s => s.putNibble v arg (pat s.cfg) (k s.cfg) (j s.cfg) :=
  faultBlind_bind (chk := (State.needVariant · v)) (fun _ => rfl) fun _ =>
    faultBlind_bind (chk := fun s => resolveEnum arg (pat s.cfg)) (fun _ => rfl) fun _ =>
      faultBlind_needFrame .b (faultBlind_ok fun _ => rfl)

theorem faultBlind_setModeSF (arg : EnumArg) : FaultBlind (setModeSF arg) :=
  faultBlind_bind (chk := fun s => resolveEnum arg s.cfg.sfModePat) (fun _ => rfl) fun _ =>
    faultBlind_needFrame .b (faultBlind_ok fun _ => rfl)

theorem faultBlind_setModeDF (arg : EnumArg) : FaultBlind (setModeDF arg) := by
  refine faultBlind_bind (chk := fun s => resolveEnum arg s.cfg.dfModePat) (fun _ => rfl) fun p =>
    faultBlind_needFrame .b (faultBlind_ok fun s => ?_)
  rw [State.clearFault_cfg]
  cases miscOf s.cfg arg <;> rfl

/-- An effect that each variant has its own of. -/
theorem faultBlind_variant {f g : State → Except FaultCode State} (hf : FaultBlind f) (hg : FaultBlind g) :
    FaultBlind fun s => match s.cfg.variant with | .sf => f s | .df => g s := by
  intro s
  simp only [State.clearFault_cfg]
  cases s.cfg.variant with
  | sf => exact hf s
  | df => exact hg s

theorem newFrames_clearFault (s : State) : newFrames s.clearFault = (newFrames s).clearFault := by
  cases hv : s.cfg.variant <;> simp [newFrames, hv] <;> rfl

theorem State.loadEntry_clearFault (s : State) (e : Entry) : s.clearFault.loadEntry e = (s.loadEntry e).clearFault := by
  cases hv : s.cfg.variant <;> simp [State.loadEntry, hv] <;> rfl

theorem popEffect_clearFault (s : State) : popEffect s.clearFault = (popEffect s).clearFault := by
  cases ho : s.oq with
  | nil => simp only [popEffect, State.clearFault_oq, ho]; rfl
  | cons e rest =>
    simp only [popEffect, State.clearFault_oq, ho]
    exact congrArg (State.setRes · _) ({ s with oq := rest }.loadEntry_clearFault e)

/-! ### Every command -/

/-- An event is discarded while a fault is recorded (41_synchronizer.md R136). -/
theorem State.event_of_fault {s : State} (h : s.fcode ≠ .noFault) (f : State → Except FaultCode State) :
    s.event f = .next s := by rw [State.event, if_neg h]

theorem effectKind_of_event {i : Instr} (h : Statements.isEvent i = true) : effectKind i = .event := by
  cases i <;> simp_all [effectKind, Statements.isEvent]

/-- The command completes with and without the fault record, and the two states differ in the record alone. -/
def SameUnderFault (i : Instr) (s : State) : Prop :=
  ∃ t u, exec i s = .next t ∧ exec i s.clearFault = .next u ∧ t.clearFault = u.clearFault

@[simp] theorem State.clearFault_raise (s : State) (c : FaultCode) (e : Bool) :
    (s.raise c e).clearFault = s.clearFault := by unfold State.raise; split <;> rfl

section
variable {i : Instr} {s : State}

theorem sameUnderFault_of_faultBlind {f : State → Except FaultCode State} (he : ∀ s, exec i s = s.complete (f s))
    (hf : FaultBlind f) : SameUnderFault i s := by
  refine ⟨_, _, he s, he s.clearFault, ?_⟩
  have h := hf s
  cases hr : f s with
  | ok t =>
    cases hr' : f s.clearFault with
    | ok u => simpa [hr, hr', Except.map] using h.symm
    | error c => simp [hr, hr', Except.map] at h
  | error c =>
    cases hr' : f s.clearFault with
    | ok u => simp [hr, hr', Except.map] at h
    | error c' => simp only [State.settle_error, State.clearFault_raise]; rfl

theorem sameUnderFault_of_answer {r : State → Except FaultCode Word} (he : ∀ s, exec i s = s.answer (r s))
    (hr : ∀ s, r s.clearFault = r s) : SameUnderFault i s := by
  refine sameUnderFault_of_faultBlind he fun s => ?_
  simp only [hr]
  cases r s <;> rfl

end

/-- A command that is no event executes normally while a fault is recorded (41_synchronizer.md R136). -/
theorem exec_sameUnderFault (i : Instr) (s : State) (h : effectKind i ≠ .event) : SameUnderFault i s := by
  cases i with
  | pulse d | space d | timeout => exact absurd rfl h
  | nop | chklead | clsm d | clss d | getr f start len | getb f k | gettemp | getmode | getfpwr | getfang | getfan
  | getswing | ckchk | getck => exact sameUnderFault_of_answer (fun _ => rfl) fun _ => rfl
  | capstart => exact ⟨_, _, rfl, rfl, rfl⟩
  | popcmd =>
    exact sameUnderFault_of_faultBlind (fun _ => rfl) (faultBlind_ok fun s => by rw [popEffect_clearFault s]; rfl)
  | newf =>
    exact sameUnderFault_of_faultBlind (fun _ => rfl) (faultBlind_ok fun s => by rw [newFrames_clearFault s]; rfl)
  | setr f start len data =>
    exact sameUnderFault_of_faultBlind (fun _ => rfl) (faultBlind_slotWrite (fun _ => rfl) fun _ => rfl)
  | setb f k v =>
    exact sameUnderFault_of_faultBlind (fun _ => rfl) (faultBlind_slotWrite (fun _ => rfl) fun _ => rfl)
  | settemp t2 =>
    exact sameUnderFault_of_faultBlind (fun _ => rfl) (faultBlind_needFrame .b (faultBlind_ok fun _ => rfl))
  | setmode arg =>
    exact sameUnderFault_of_faultBlind (fun _ => rfl)
      (faultBlind_variant (faultBlind_setModeSF arg) (faultBlind_setModeDF arg))
  | setfpwr arg =>
    exact sameUnderFault_of_faultBlind (fun _ => rfl)
      (faultBlind_putNibble _ _ (·.sfPwrPat) (·.sf.fanByte) fun _ => 1)
  | setfang arg =>
    exact sameUnderFault_of_faultBlind (fun _ => rfl)
      (faultBlind_putNibble _ _ (·.sfAngPat) (·.sf.fanByte) fun _ => 0)
  | setfan arg =>
    exact sameUnderFault_of_faultBlind (fun _ => rfl)
      (faultBlind_putNibble _ _ (·.dfFanPat) (·.df.fsByte) fanNibble)
  | setswing arg =>
    exact sameUnderFault_of_faultBlind (fun _ => rfl)
      (faultBlind_putNibble _ _ (·.dfSwingPat) (·.df.fsByte) (·.df.swingNibble))
  | ckgen =>
    exact sameUnderFault_of_faultBlind (fun _ => rfl) (faultBlind_needFrame .b
      (faultBlind_variant (faultBlind_ok fun _ => rfl) (faultBlind_ok fun _ => rfl)))
  | emit =>
    exact sameUnderFault_of_faultBlind (fun _ => rfl) (faultBlind_variant
      (faultBlind_needFrame .b (faultBlind_ok fun _ => rfl))
      (faultBlind_needFrame .a (faultBlind_needFrame .b (faultBlind_ok fun _ => rfl))))

end Sys2Proof.Machine

open Sys2Proof Sys2Proof.Machine Sys2Proof.Statements

/-- Settles O17. -/
theorem recordedFaultStopsEventsOnly : Obligations.RecordedFaultStopsEventsOnly := by
  refine fun s i hf => ⟨fun hev => ?_, fun hev => exec_sameUnderFault i s (effectKind_of_not_event hev)⟩
  rw [exec_event i s (effectKind_of_event hev), State.event_of_fault hf]
end

section
/-! SUPPORT. The synchronizer's commands, said once by what they find: a pending pulse, the class of a duration, the
active slot empty, full or partial, and room in the queue (41_synchronizer.md). -/

namespace Sys2Proof.Machine

open Sys2Proof.Statements

/-! ### Counted events -/

section
variable {i : Instr} {s t : State} {c : FaultCode}

theorem exec_event_of_ok (hk : effectKind i = .event) (hf : s.fcode = .noFault)
    (ht : eventEffect i s.countEvent = .ok t) : exec i s = .next t := by
  rw [exec_event i s hk, State.event, if_pos hf, ht, State.settle_ok]

/-- A counted event that faults keeps its count and its ordinal (60_exceptions.md R262). -/
theorem eventRaises_of_error (hk : effectKind i = .event) (hf : s.fcode = .noFault)
    (hc : eventEffect i s.countEvent = .error c) : EventRaises i s c := by
  rw [EventRaises, exec_event i s hk, State.event, if_pos hf, hc, State.settle_error,
    State.raise_of_noFault s.countEvent c true hf]
  rfl

end

/-! ### The assembler and the queue -/

section
variable {s : State}

theorem State.activeCount_of_a (h : s.act = .a) : s.activeCount = s.cntA := by rw [s.activeCount_eq, if_pos h]

theorem State.activeCount_of_b (h : s.act = .b) : s.activeCount = s.cntB := by
  rw [s.activeCount_eq, if_neg (by simp [h])]

/-- The active slot holds a whole frame. -/
theorem State.activeCount_eq_frameLen_iff (s : State) :
    s.activeCount = frameLen s.act ↔ s.act = .a ∧ s.cntA = 64 ∨ s.act = .b ∧ s.cntB = 152 := by
  cases ha : s.act <;> simp [State.activeCount, frameLen, ha]

theorem State.closeActive_of_full_a (ha : s.act = .a) (hc : s.cntA = 64) : s.closeActive = .ok .full :=
  s.closeActive_of_full (s.activeCount_eq_frameLen_iff.mpr (.inl ⟨ha, hc⟩))

theorem State.closeActive_of_full_b (ha : s.act = .b) (hc : s.cntB = 152) : s.closeActive = .ok .full :=
  s.closeActive_of_full (s.activeCount_eq_frameLen_iff.mpr (.inr ⟨ha, hc⟩))

/-- A partial frame. -/
theorem State.closeActive_of_between
    (h : (s.act = .a ∧ 0 < s.cntA ∧ s.cntA < 64) ∨ (s.act = .b ∧ 0 < s.cntB ∧ s.cntB < 152)) :
    s.closeActive = .error .frameLength := by
  rcases h with ⟨ha, h0, hlt⟩ | ⟨ha, h0, hlt⟩
  · exact s.closeActive_of_partial (by rw [State.activeCount_of_a ha]; omega)
      (by rw [State.activeCount_of_a ha, ha]; exact hlt.ne)
  · exact s.closeActive_of_partial (by rw [State.activeCount_of_b ha]; omega)
      (by rw [State.activeCount_of_b ha, ha]; exact hlt.ne)

theorem State.push_of_room (h : s.oq.length < s.cfg.oqDepth) (e : Entry) :
    s.push e = .ok { s with oq := s.oq ++ [e] } := if_neg h.ne

theorem State.push_of_full (h : s.oq.length = s.cfg.oqDepth) (e : Entry) : s.push e = .error .queueOverflow := if_pos h

/-- A frame with one bit written. -/
theorem withSlice_ofBool_getLsbD {l : Nat} (w : BitVec l) (p : Nat) (bit : Bool) {j : Nat} (hj : j < l) :
    (withSlice w p (BitVec.ofBool bit)).getLsbD j = if j = p then bit else w.getLsbD j := by
  rw [withSlice_getLsbD]
  by_cases h : j = p
  · subst h
    simp [hj]
  · rw [if_neg h, if_neg (by omega)]

/-! ### Symbols (41_synchronizer.md R137 to R141) -/

theorem bitEffect_of_outside (h : s.sync ≠ .inFrame) (bit : Bool) : bitEffect bit s = .error .bitOutsideFrame := by
  rw [bitEffect, decide_eq_false h]
  rfl

theorem bitEffect_of_full (hs : s.sync = .inFrame) (hc : s.activeCount = frameLen s.act) (bit : Bool) :
    bitEffect bit s = .error .frameOverflow := by
  rw [bitEffect, decide_eq_true hs, decide_eq_false (not_not_intro hc)]
  rfl

theorem bitEffect_of_room (hs : s.sync = .inFrame) (hc : s.activeCount ≠ frameLen s.act) (bit : Bool) :
    bitEffect bit s = .ok (s.appendBit bit) := by
  rw [bitEffect, decide_eq_true hs, decide_eq_true hc]
  rfl

/-- A data bit with room in frame 1. -/
theorem bitEffect_of_room_a (hs : s.sync = .inFrame) (ha : s.act = .a) (hroom : s.cntA < 64) (bit : Bool) :
    bitEffect bit s =
      .ok { s with abufA := withSlice s.abufA s.cntA (BitVec.ofBool bit), cntA := s.cntA + 1 } := by
  have hc : s.activeCount ≠ frameLen s.act := by rw [State.activeCount_of_a ha, ha]; exact hroom.ne
  rw [bitEffect_of_room hs hc, State.appendBit]
  simp only [ha]

/-- A data bit with room in the 152-bit frame. -/
theorem bitEffect_of_room_b (hs : s.sync = .inFrame) (ha : s.act = .b) (hroom : s.cntB < 152) (bit : Bool) :
    bitEffect bit s =
      .ok { s with abufB := withSlice s.abufB s.cntB (BitVec.ofBool bit), cntB := s.cntB + 1 } := by
  have hc : s.activeCount ≠ frameLen s.act := by rw [State.activeCount_of_b ha, ha]; exact hroom.ne
  rw [bitEffect_of_room hs hc, State.appendBit]
  simp only [ha]

theorem symbolEffect_separator_sf (hv : s.cfg.variant = .sf) :
    symbolEffect .separator s = separatorEffectSF s := by simp only [symbolEffect, hv]

theorem symbolEffect_separator_df (hv : s.cfg.variant = .df) :
    symbolEffect .separator s = separatorEffectDF s := by simp only [symbolEffect, hv]

/-- After an empty frame a separator only moves to AWAIT_NEXT, in both variants. -/
theorem separator_of_empty (h : s.activeCount = 0) :
    symbolEffect .separator s = .ok { s with sync := .awaitNext } := by
  have hc := s.closeActive_of_zero h
  cases hv : s.cfg.variant with
  | sf => rw [symbolEffect_separator_sf hv, separatorEffectSF, hc]; rfl
  | df => rw [symbolEffect_separator_df hv, separatorEffectDF, hc]; rfl

/-- After a partial frame a separator faults, in both variants. -/
theorem separator_of_partial (h : s.closeActive = .error .frameLength) :
    symbolEffect .separator s = .error .frameLength := by
  cases hv : s.cfg.variant with
  | sf => rw [symbolEffect_separator_sf hv, separatorEffectSF, h]; rfl
  | df => rw [symbolEffect_separator_df hv, separatorEffectDF, h]; rfl

theorem separator_of_full_sf (hv : s.cfg.variant = .sf) (ha : s.act = .b) (hc : s.cntB = 152) :
    symbolEffect .separator s =
      (s.push ⟨none, some s.abufB⟩).map fun t => { t with cntB := 0, sync := .awaitNext } := by
  rw [symbolEffect_separator_sf hv, separatorEffectSF, State.closeActive_of_full_b ha hc]
  rfl

theorem separator_of_full_a (hv : s.cfg.variant = .df) (ha : s.act = .a) (hc : s.cntA = 64) :
    symbolEffect .separator s = .ok { s with doneA := true, act := .b, cntB := 0, sync := .awaitNext } := by
  rw [symbolEffect_separator_df hv, separatorEffectDF, State.closeActive_of_full_a ha hc, ha]
  rfl

theorem separator_of_full_b (hv : s.cfg.variant = .df) (ha : s.act = .b) (hc : s.cntB = 152) :
    symbolEffect .separator s = (s.push ⟨some s.abufA, some s.abufB⟩).map fun t =>
      { t with cntA := 0, cntB := 0, doneA := false, act := .a, sync := .awaitNext } := by
  rw [symbolEffect_separator_df hv, separatorEffectDF, State.closeActive_of_full_b ha hc, ha]
  rfl

/-! ### PULSE and SPACE (41_synchronizer.md R133, R134) -/

theorem pulseEffect_of_pending (h : s.pend = true) (d : Nat) : pulseEffect d s = .error .malformed := by
  rw [pulseEffect, h]
  rfl

theorem pulseEffect_of_ambiguous {d : Nat} (h : s.pend = false) (hc : classMark s.cfg d = none) :
    pulseEffect d s = .error .ambiguous := by
  rw [pulseEffect, h, hc]
  rfl

theorem pulseEffect_of_class {d : Nat} {mc : MarkClass} (h : s.pend = false) (hc : classMark s.cfg d = some mc) :
    pulseEffect d s = .ok ({ s with pend := true, pmark := mc }.setRes (BitVec.ofNat 32 mc.code)) := by
  rw [pulseEffect, h, hc]
  rfl

theorem spaceEffect_of_not_pending (h : s.pend = false) (d : Nat) : spaceEffect d s = .error .malformed := by
  rw [spaceEffect, h]
  rfl

theorem spaceEffect_of_ambiguous {d : Nat} (h : s.pend = true) (hc : classSpace s.cfg d = none) :
    spaceEffect d s = .error .ambiguous := by
  rw [spaceEffect, h, hc]
  rfl

variable {d : Nat} {mc : MarkClass} {sc : SpaceClass}

theorem spaceEffect_of_ready (h : SpaceReady s d mc sc) : spaceEffect d s.countEvent = do
    let sym ← orFault (pairSymbol mc sc) .pairMismatch
    let t ← symbolEffect sym s.countEvent
    return { t with pend := false }.setRes (BitVec.ofNat 32 sym.code) := by
  obtain ⟨-, hp, hm, hc⟩ := h
  rw [spaceEffect, State.countEvent_pend, State.countEvent_pmark, State.countEvent_cfg, hp, hm, hc]
  rfl

/-- A pair of classes that is no symbol faults (40_classifier.md R115). -/
theorem space_raises_pairMismatch (h : SpaceReady s d mc sc) (hsym : pairSymbol mc sc = none) :
    EventRaises (.space d) s .pairMismatch :=
  eventRaises_of_error rfl h.1 ((spaceEffect_of_ready h).trans (by rw [hsym]; rfl))

variable {sym : PairSymbol} {t : State} {c : FaultCode}

/-- A SPACE whose symbol takes effect. -/
theorem exec_space_of_symbol (h : SpaceReady s d mc sc) (hsym : pairSymbol mc sc = some sym)
    (ht : symbolEffect sym s.countEvent = .ok t) :
    exec (.space d) s = .next ({ t with pend := false }.setRes (BitVec.ofNat 32 sym.code)) := by
  refine exec_event_of_ok rfl h.1 ((spaceEffect_of_ready h).trans ?_)
  rw [hsym]
  simp only [orFault, bind, Except.bind, ht]
  rfl

/-- A SPACE whose symbol faults. -/
theorem space_raises_of_symbol (h : SpaceReady s d mc sc) (hsym : pairSymbol mc sc = some sym)
    (hc : symbolEffect sym s.countEvent = .error c) : EventRaises (.space d) s c := by
  refine eventRaises_of_error rfl h.1 ((spaceEffect_of_ready h).trans ?_)
  rw [hsym]
  simp only [orFault, bind, Except.bind, hc]

theorem pairSymbol_dataBit (bit : Bool) : pairSymbol .mark (if bit then .long else .short) = some (.bit bit) := by
  cases bit <;> rfl

theorem code_dataBit (bit : Bool) :
    BitVec.ofNat 32 (PairSymbol.bit bit).code = (if bit then 3 else 2 : Word) := by cases bit <;> rfl

theorem pairSymbol_headerMark (h : sc ≠ .headerSpace) : pairSymbol .headerMark sc = none := by
  cases sc with
  | headerSpace => exact absurd rfl h
  | short | long | separator => rfl

/-! ### TIMEOUT (41_synchronizer.md R135, R142, R143) -/

theorem State.restartSync_countEvent {x : Slot} (h : firstSlot s.cfg.variant = x) :
    s.countEvent.restartSync = { s with
      evcnt := s.evcnt + 1, sync := .awaitHeader, act := x, pend := false, pmark := .mark, cntA := 0, cntB := 0,
      doneA := false } := by
  subst h
  rfl

/-- What a TIMEOUT does after the active slot is closed: the entry to flush, if there is one, is pushed, and the
synchronizer restarts. -/
theorem timeoutEffect_of_closed {r : Closed} (h : s.closeActive = .ok r) : timeoutEffect s =
    (s.pushIf (flushEntry s r)).map fun t => t.restartSync.setRes (if (flushEntry s r).isSome then 1 else 0) := by
  rw [timeoutEffect, h]
  rfl

theorem timeout_raises_of_partial (hf : s.fcode = .noFault) (h : s.closeActive = .error .frameLength) :
    EventRaises .timeout s .frameLength := by
  have hc : s.countEvent.closeActive = .error .frameLength := h
  have heff : timeoutEffect s.countEvent = .error .frameLength := by rw [timeoutEffect, hc]; rfl
  exact eventRaises_of_error rfl hf heff

theorem exec_timeout_of_nothing {r : Closed} (hf : s.fcode = .noFault) (h : s.closeActive = .ok r)
    (he : flushEntry s r = none) : exec .timeout s = .next { s.countEvent.restartSync with res := 0 } := by
  have he' : flushEntry s.countEvent r = none := he
  have heff := timeoutEffect_of_closed (s := s.countEvent) h
  rw [he'] at heff
  exact exec_event_of_ok rfl hf heff

/-- A TIMEOUT that flushes `e`: with room in the queue it is pushed, without it the TIMEOUT faults. -/
theorem exec_timeout_of_entry {r : Closed} {e : Entry} (hf : s.fcode = .noFault) (h : s.closeActive = .ok r)
    (he : flushEntry s r = some e) :
    (s.oq.length < s.cfg.oqDepth →
      exec .timeout s = .next { s.countEvent.restartSync with res := 1, oq := s.oq ++ [e] }) ∧
    (s.oq.length = s.cfg.oqDepth → EventRaises .timeout s .queueOverflow) := by
  have he' : flushEntry s.countEvent r = some e := he
  have heff := timeoutEffect_of_closed (s := s.countEvent) h
  rw [he', State.pushIf] at heff
  refine ⟨fun hroom => ?_, fun hfull => ?_⟩
  · rw [State.push_of_room (s := s.countEvent) hroom] at heff
    exact exec_event_of_ok rfl hf heff
  · rw [State.push_of_full (s := s.countEvent) hfull] at heff
    exact eventRaises_of_error rfl hf heff

/-! ### CHKLEAD (41_synchronizer.md R146) -/

theorem leadMatches_of_sf (hv : s.cfg.variant = .sf) (hw : s.wvB = true) :
    leadMatches s = .ok (sliceOf s.wB 0 40 == sliceOf s.cfg.sfTemplate 0 40) := by
  simp only [leadMatches, hv, State.needFrame, State.valid, hw]
  rfl

theorem leadMatches_of_df (hv : s.cfg.variant = .df) (hw : s.wvA = true) :
    leadMatches s = .ok (s.wA == s.cfg.dfTemplateA) := by
  simp only [leadMatches, hv, State.needFrame, State.valid, hw]
  rfl

/-- Two frames have the same first bits. -/
theorem sliceOf_zero_eq_iff {l : Nat} (w x : BitVec l) (n : Nat) :
    sliceOf w 0 n = sliceOf x 0 n ↔ ∀ j < n, w.getLsbD j = x.getLsbD j := by
  rw [BitVec.eq_of_getLsbD_eq_iff]
  refine forall₂_congr fun j hj => ?_
  simp only [sliceOf_getLsbD, hj, decide_true, Bool.true_and, Nat.zero_add]

/-- CHKLEAD answers what it found, as 1 or 0. -/
theorem exec_chklead_of_hit {hit : Bool} {p : Prop} (h : leadMatches s = .ok hit) (hp : hit = true ↔ p) :
    ∃ v, exec .chklead s = .next { s with res := v } ∧ (v = 0 ∨ v = 1) ∧ (v = 1 ↔ p) := by
  refine ⟨if hit then 1 else 0, ?_, ?_, ?_⟩
  · show execChklead s = _
    rw [execChklead, h]
    rfl
  · cases hit <;> simp
  · rw [← hp]
    cases hit <;> simp

/-! ### POPCMD (41_synchronizer.md R145) -/

theorem popResult_eq_popCode (e : Entry) : popResult e = popCode e := by
  unfold popResult popCode
  cases e.fa.isSome <;> cases e.fb.isSome <;> decide

theorem exec_popcmd (s : State) : exec .popcmd s = .next (popEffect s) := rfl

theorem popEffect_of_empty (h : s.oq = []) : popEffect s = s.setRes 0 := by simp only [popEffect, h]

section
variable {e : Entry} {rest : List Entry}

theorem popEffect_of_sf (hv : s.cfg.variant = .sf) (h : s.oq = e :: rest) : popEffect s =
    { s with oq := rest, res := popCode e, wvB := e.fb.isSome, wB := e.fb.getD s.wB } := by
  simp only [popEffect, h, State.loadEntry, hv, popResult_eq_popCode]
  rfl

theorem popEffect_of_df (hv : s.cfg.variant = .df) (h : s.oq = e :: rest) : popEffect s =
    { s with oq := rest, res := popCode e, wvA := e.fa.isSome, wA := e.fa.getD s.wA, wvB := e.fb.isSome,
             wB := e.fb.getD s.wB } := by
  simp only [popEffect, h, State.loadEntry, hv, popResult_eq_popCode]
  rfl

end

end

end Sys2Proof.Machine

open Sys2Proof Sys2Proof.Machine Sys2Proof.Statements

/-- Settles O13. -/
theorem nopClearsResultOnly : Obligations.NopClearsResultOnly := fun _ => rfl

/-- Settles O14. -/
theorem capstartRestartsCapture : Obligations.CapstartRestartsCapture := by
  intro s
  rw [← firstSlot_eq]
  rfl

/-- Settles O15. -/
theorem pulseIsHeldPending : Obligations.PulseIsHeldPending := by
  intro s d mc hf hp hc
  refine (exec_event_of_ok (i := .pulse d) rfl hf (pulseEffect_of_class (s := s.countEvent) hp hc)).trans ?_
  cases mc <;> rfl

/-- Settles O16. -/
theorem pulseFaults : Obligations.PulseFaults := fun s d hf =>
  ⟨fun hp => eventRaises_of_error rfl hf (pulseEffect_of_pending (s := s.countEvent) hp d),
    fun hp hc => eventRaises_of_error rfl hf (pulseEffect_of_ambiguous (s := s.countEvent) hp hc)⟩

/-- Settles O18. -/
theorem headerEntersFrame : Obligations.HeaderEntersFrame := fun _ _ h => exec_space_of_symbol h rfl rfl

/-- Settles O19, by the active slot. -/
theorem dataBitIsAppended : Obligations.DataBitIsAppended := by
  intro s d bit h hs
  refine ⟨fun ha hroom => ?_, fun ha hroom => ?_⟩
  · have hbit := bitEffect_of_room_a (s := s.countEvent) hs ha hroom bit
    refine ⟨_, exec_space_of_symbol h (pairSymbol_dataBit bit) hbit, ?_, fun j hj => withSlice_ofBool_getLsbD _ _ _ hj⟩
    rw [code_dataBit]
    rfl
  · have hbit := bitEffect_of_room_b (s := s.countEvent) hs ha hroom bit
    refine ⟨_, exec_space_of_symbol h (pairSymbol_dataBit bit) hbit, ?_, fun j hj => withSlice_ofBool_getLsbD _ _ _ hj⟩
    rw [code_dataBit]
    rfl

/-- Settles O20. -/
theorem spaceFaults : Obligations.SpaceFaults := by
  intro s d hf
  refine ⟨fun hp => ?_, fun hp hc => ?_, fun h => ?_, fun sc hsc h => ?_, fun bit h => ⟨fun hs => ?_, fun hs hc => ?_⟩⟩
  · exact eventRaises_of_error rfl hf (spaceEffect_of_not_pending (s := s.countEvent) hp d)
  · exact eventRaises_of_error rfl hf (spaceEffect_of_ambiguous (s := s.countEvent) hp hc)
  · exact space_raises_pairMismatch h rfl
  · exact space_raises_pairMismatch h (pairSymbol_headerMark hsc)
  · exact space_raises_of_symbol h (pairSymbol_dataBit bit) (bitEffect_of_outside (s := s.countEvent) hs bit)
  · have hfull := s.activeCount_eq_frameLen_iff.mpr hc
    exact space_raises_of_symbol h (pairSymbol_dataBit bit) (bitEffect_of_full (s := s.countEvent) hs hfull bit)

/-- Settles O21, by what the active slot holds. -/
theorem separatorSingleFrame : Obligations.SeparatorSingleFrame := by
  intro s d h hv ha
  have hfull := separator_of_full_sf (s := s.countEvent) hv ha
  refine ⟨fun hc => ?_, fun hc hroom => ?_, fun h0 hlt => ?_, fun hc hno => ?_⟩
  · have hempty : s.countEvent.activeCount = 0 := (State.activeCount_of_b ha).trans hc
    exact exec_space_of_symbol h rfl (separator_of_empty hempty)
  · rw [State.push_of_room (s := s.countEvent) hroom] at hfull
    exact exec_space_of_symbol h rfl (hfull hc)
  · have hpart : s.countEvent.closeActive = .error .frameLength := State.closeActive_of_between (.inr ⟨ha, h0, hlt⟩)
    exact space_raises_of_symbol h rfl (separator_of_partial hpart)
  · rw [State.push_of_full (s := s.countEvent) hno] at hfull
    exact space_raises_of_symbol h rfl (hfull hc)

/-- Settles O22, by what the active slot holds. -/
theorem separatorDualFrame : Obligations.SeparatorDualFrame := by
  intro s d h hv
  have hpair := separator_of_full_b (s := s.countEvent) hv
  refine ⟨fun hc => ?_, fun ha hc => ?_, fun ha hc hroom => ?_, fun hb => ?_, fun ha hc hno => ?_⟩
  · exact exec_space_of_symbol h rfl (separator_of_empty (s := s.countEvent) hc)
  · exact exec_space_of_symbol h rfl (separator_of_full_a (s := s.countEvent) hv ha hc)
  · rw [State.push_of_room (s := s.countEvent) hroom] at hpair
    exact exec_space_of_symbol h rfl (hpair ha hc)
  · have hpart : s.countEvent.closeActive = .error .frameLength := State.closeActive_of_between hb
    exact space_raises_of_symbol h rfl (separator_of_partial hpart)
  · rw [State.push_of_full (s := s.countEvent) hno] at hpair
    exact space_raises_of_symbol h rfl (hpair ha hc)

/-- Settles O23: outside a frame the active slot is empty. -/
theorem separatorOutsideFrameIsNoise : Obligations.SeparatorOutsideFrameIsNoise := by
  rintro s d ⟨-, ⟨-, -, -, -, -, -, hout⟩, -⟩ h hs
  exact exec_space_of_symbol h rfl (separator_of_empty (s := s.countEvent) (hout hs))

/-- Settles O24, by what the active slot holds. -/
theorem timeoutSingleFrame : Obligations.TimeoutSingleFrame := by
  intro s hf hv ha
  have hfirst : firstSlot s.cfg.variant = s.act := by rw [hv, ha]; rfl
  have hflush (hc : s.cntB = 152) := exec_timeout_of_entry (e := ⟨none, some s.abufB⟩) hf
    (State.closeActive_of_full_b ha hc) (by simp only [flushEntry, hv])
  refine ⟨fun hc => ?_, fun hc hroom => ?_, fun h0 hlt => ?_, fun hc => (hflush hc).2⟩
  · have hempty := s.closeActive_of_zero ((State.activeCount_of_b ha).trans hc)
    rw [exec_timeout_of_nothing hf hempty (by simp only [flushEntry, hv]), State.restartSync_countEvent hfirst]
  · rw [(hflush hc).1 hroom, State.restartSync_countEvent hfirst]
  · exact timeout_raises_of_partial hf (State.closeActive_of_between (.inr ⟨ha, h0, hlt⟩))

/-- Settles O25, by the rows of the table of 41_synchronizer.md R143. -/
theorem timeoutDualFrame : Obligations.TimeoutDualFrame := by
  intro s hf hv restarted flushes
  have hfirst : firstSlot s.cfg.variant = .a := by rw [hv]; rfl
  have hflush : ∀ r e, s.closeActive = .ok r → flushEntry s r = some e → flushes e := by
    intro r e hr he
    obtain ⟨hpush, hfull⟩ := exec_timeout_of_entry hf hr he
    refine ⟨fun hroom => ?_, hfull⟩
    rw [hpush hroom, State.restartSync_countEvent hfirst]
  refine ⟨fun ha _ hc => ?_, fun ha _ hc => ?_, fun ha _ hc => ?_, fun ha _ hc => ?_, fun hpart => ?_⟩
  · have hempty := s.closeActive_of_zero ((State.activeCount_of_a ha).trans hc)
    rw [exec_timeout_of_nothing hf hempty (by simp only [flushEntry, hv, ha]), State.restartSync_countEvent hfirst]
  · exact hflush .full _ (State.closeActive_of_full_a ha hc) (by simp only [flushEntry, hv, ha])
  · have hempty := s.closeActive_of_zero ((State.activeCount_of_b ha).trans hc)
    exact hflush .empty _ hempty (by simp only [flushEntry, hv, ha])
  · exact hflush .full _ (State.closeActive_of_full_b ha hc) (by simp only [flushEntry, hv, ha])
  · exact timeout_raises_of_partial hf (State.closeActive_of_between hpart)

/-- Settles O26. -/
theorem popcmdTakesOldestEntry : Obligations.PopcmdTakesOldestEntry := by
  intro s
  rw [exec_popcmd]
  refine ⟨fun ho => congrArg _ (popEffect_of_empty ho), fun e rest ho => ⟨fun hv => ?_, fun hv => ?_⟩⟩
  · rw [popEffect_of_sf hv ho]
    exact ⟨_, rfl, rfl, fun x hx => by rw [hx]; rfl⟩
  · rw [popEffect_of_df hv ho]
    exact ⟨_, rfl, rfl, fun x hx => by rw [hx]; rfl, fun x hx => by rw [hx]; rfl⟩

/-- Settles O27. -/
theorem chkleadComparesTemplate : Obligations.ChkleadComparesTemplate := by
  intro s
  refine ⟨fun hv hw => ?_, fun hv hw => ?_⟩
  · exact exec_chklead_of_hit (leadMatches_of_sf hv hw) (beq_iff_eq.trans (sliceOf_zero_eq_iff _ _ _))
  · exact exec_chklead_of_hit (leadMatches_of_df hv hw) (beq_iff_eq.trans BitVec.eq_of_getLsbD_eq_iff)
end

section
/-! SUPPORT. The bit-frame indexer: the statements' tables are the model's, a range access and a byte access fault at
the first check that fails, and a slice of a frame is read and written bit by bit (42_bitframe.md). -/

namespace Sys2Proof.Machine

open Sys2Proof.Statements

/-! ### Selectors, valid bits, lengths and byte numbers (20_memory.md R73; 42_bitframe.md R170) -/

theorem selectedSlot_eq_some_iff (v : Variant) (f : BitVec 2) (x : Slot) :
    selectedSlot v f = some x ↔ Selects v f x := by
  cases v with
  | sf => simp [selectedSlot, Selects, eq_comm (b := x)]
  | df =>
    by_cases h1 : f = 1#2
    · simp [selectedSlot, Selects, h1, eq_comm (b := x)]
    · by_cases h2 : f = 2#2
      · simp [selectedSlot, Selects, h2, eq_comm (b := x)]
      · simp [selectedSlot, Selects, h1, h2]

theorem State.valid_eq_true_iff (s : State) (x : Slot) : s.valid x = true ↔ Holds s x := by
  cases x <;> simp [State.valid, Holds]

theorem frameLen_eq_bitsOf (x : Slot) : frameLen x = bitsOf x := by cases x <;> rfl

theorem byteAt_iff (v : Variant) (x : Slot) (k p : Nat) :
    ByteAt v x k p ↔ isByteNumber v x k = true ∧ p = byteStart v k := by
  cases v <;> cases x <;> simp [ByteAt, isByteNumber, byteStart, and_assoc]

/-- A byte lies inside its frame. -/
theorem byteAt_le_bitsOf {v : Variant} {x : Slot} {k p : Nat} (h : ByteAt v x k p) : p + 8 ≤ bitsOf x := by
  rcases h with ⟨-, rfl, hk, rfl⟩ | ⟨-, rfl, h1, hk, rfl⟩ | ⟨-, rfl, h1, hk, rfl⟩ <;> simp only [bitsOf] <;> omega

/-! ### The checks of an access, each where the checks before it hold (42_bitframe.md R172, R174) -/

section
variable {s : State} {f : BitVec 2} {x : Slot} {start len k : Nat}

theorem State.select_of_holds (hx : Selects s.cfg.variant f x) (hv : Holds s x) : s.select f = .ok x :=
  (s.select_eq_ok_iff f x).mpr ⟨(selectedSlot_eq_some_iff _ f x).mpr hx, (s.valid_eq_true_iff x).mpr hv⟩

theorem State.select_of_no_frame (h : ∀ x, ¬Selects s.cfg.variant f x) : s.select f = .error .illegalOperand := by
  have hnone : selectedSlot s.cfg.variant f = none :=
    Option.eq_none_iff_forall_ne_some.mpr fun x hx => h x ((selectedSlot_eq_some_iff _ f x).mp hx)
  rw [State.select, hnone]

theorem State.select_of_not_holds (hx : Selects s.cfg.variant f x) (hv : ¬Holds s x) : s.select f = .error .uninit := by
  rw [State.select, (selectedSlot_eq_some_iff _ f x).mpr hx]
  exact if_neg (mt (s.valid_eq_true_iff x).mp hv)

theorem State.rangeSlot_of_long (h : 32 < len) : s.rangeSlot f start len = .error .illegalOperand := by
  rw [State.rangeSlot, decide_eq_false h.not_ge]
  rfl

theorem State.rangeSlot_of_short (h : len ≤ 32) : s.rangeSlot f start len =
    s.select f >>= fun x => check (decide (start + len ≤ frameLen x)) .range >>= fun _ => pure x := by
  rw [State.rangeSlot, decide_eq_true h]
  rfl

theorem State.rangeSlot_of_select_error {c : FaultCode} (h : len ≤ 32) (hc : s.select f = .error c) :
    s.rangeSlot f start len = .error c := by
  rw [State.rangeSlot_of_short h, hc]
  rfl

theorem State.rangeSlot_of_outside (h : len ≤ 32) (hx : s.select f = .ok x) (hr : bitsOf x < start + len) :
    s.rangeSlot f start len = .error .range := by
  have hout : ¬start + len ≤ frameLen x := by rw [frameLen_eq_bitsOf]; exact hr.not_ge
  rw [State.rangeSlot_of_short h, hx]
  simp only [bind, Except.bind, decide_eq_false hout, check_false]

theorem State.rangeSlot_of_inside (h : len ≤ 32) (hx : Selects s.cfg.variant f x) (hv : Holds s x)
    (hr : start + len ≤ bitsOf x) : s.rangeSlot f start len = .ok x :=
  (s.rangeSlot_eq_ok_iff f start len x).mpr
    ⟨h, (selectedSlot_eq_some_iff _ f x).mpr hx, (s.valid_eq_true_iff x).mpr hv, (frameLen_eq_bitsOf x).symm ▸ hr⟩

theorem State.byteSlot_of_select_error {c : FaultCode} (hc : s.select f = .error c) : s.byteSlot f k = .error c := by
  rw [State.byteSlot, hc]
  rfl

theorem State.byteSlot_of_no_byte (hx : s.select f = .ok x) (hk : ∀ p, ¬ByteAt s.cfg.variant x k p) :
    s.byteSlot f k = .error .range := by
  have hno : isByteNumber s.cfg.variant x k = false :=
    Bool.eq_false_iff.mpr fun h => hk _ ((byteAt_iff _ x k _).mpr ⟨h, rfl⟩)
  rw [State.byteSlot, hx]
  simp only [bind, Except.bind, hno, check_false]

theorem State.byteSlot_of_byte {p : Nat} (hx : Selects s.cfg.variant f x) (hv : Holds s x)
    (hk : ByteAt s.cfg.variant x k p) : s.byteSlot f k = .ok x ∧ p = byteStart s.cfg.variant k := by
  obtain ⟨hbyte, hp⟩ := (byteAt_iff _ x k p).mp hk
  exact ⟨(s.byteSlot_eq_ok_iff f k x).mpr
    ⟨(selectedSlot_eq_some_iff _ f x).mpr hx, (s.valid_eq_true_iff x).mpr hv, hbyte⟩, hp⟩

/-! ### The four accesses (42_bitframe.md R172 to R175) -/

theorem exec_getr : exec (.getr f start len) s =
    s.answer ((s.rangeSlot f start len).map fun x => (s.readBits x start len).setWidth 32) := rfl

theorem exec_setr (data : Word) : exec (.setr f start len data) s =
    s.complete ((s.rangeSlot f start len).map fun x => (s.writeBits x start (data.setWidth len)).setRes 0) := rfl

theorem exec_getb : exec (.getb f k) s =
    s.answer ((s.byteSlot f k).map fun x => (s.readBits x (byteStart s.cfg.variant k) 8).setWidth 32) := rfl

theorem exec_setb (v : BitVec 8) : exec (.setb f k v) s =
    s.complete ((s.byteSlot f k).map fun x => (s.writeBits x (byteStart s.cfg.variant k) v).setRes 0) := rfl

/-- GETR and SETR record the fault of the range checks. -/
theorem rangeAccess_raises {c : FaultCode} (hc : s.rangeSlot f start len = .error c) (data : Word) :
    ∀ i ∈ [Instr.getr f start len, Instr.setr f start len data], Raises i s c := by
  refine List.forall_mem_cons.mpr ⟨?_, List.forall_mem_singleton.mpr ?_⟩
  · rw [Raises, exec_getr, hc]
    rfl
  · rw [Raises, exec_setr, hc]
    rfl

/-- GETB and SETB record the fault of the byte checks. -/
theorem byteAccess_raises {c : FaultCode} (hc : s.byteSlot f k = .error c) (v : BitVec 8) :
    ∀ i ∈ [Instr.getb f k, Instr.setb f k v], Raises i s c := by
  refine List.forall_mem_cons.mpr ⟨?_, List.forall_mem_singleton.mpr ?_⟩
  · rw [Raises, exec_getb, hc]
    rfl
  · rw [Raises, exec_setb, hc]
    rfl

theorem exec_getr_of_ok (h : s.rangeSlot f start len = .ok x) :
    exec (.getr f start len) s = .next (s.setRes ((s.readBits x start len).setWidth 32)) := by
  rw [exec_getr, h]
  rfl

theorem exec_setr_of_ok (h : s.rangeSlot f start len = .ok x) (data : Word) :
    exec (.setr f start len data) s = .next ((s.writeBits x start (data.setWidth len)).setRes 0) := by
  rw [exec_setr, h]
  rfl

theorem exec_getb_of_ok (h : s.byteSlot f k = .ok x) :
    exec (.getb f k) s = .next (s.setRes ((s.readBits x (byteStart s.cfg.variant k) 8).setWidth 32)) := by
  rw [exec_getb, h]
  rfl

theorem exec_setb_of_ok (h : s.byteSlot f k = .ok x) (v : BitVec 8) :
    exec (.setb f k v) s = .next ((s.writeBits x (byteStart s.cfg.variant k) v).setRes 0) := by
  rw [exec_setb, h]
  rfl

end

/-! ### Slices of a work frame, bit by bit -/

/-- A slice as a result: its bits from bit 0 on, zero above. -/
theorem State.readBits_setWidth_getLsbD (s : State) (x : Slot) (start n : Nat) {j : Nat} (hj : j < 32) :
    ((s.readBits x start n).setWidth 32).getLsbD j = (decide (j < n) && frameBit s x (start + j)) := by
  cases x <;> simp only [State.readBits, frameBit, BitVec.getLsbD_setWidth, sliceOf_getLsbD, hj, decide_true,
    Bool.true_and]

/-- A slice written inside its frame: its bits are the value's, every other bit of both frames is kept. -/
theorem frameBit_writeBits {n : Nat} (s : State) (x : Slot) (start : Nat) (v : BitVec n) (h : start + n ≤ bitsOf x)
    (y : Slot) (j : Nat) : frameBit (s.writeBits x start v) y j =
      if y = x ∧ start ≤ j ∧ j < start + n then v.getLsbD (j - start) else frameBit s y j := by
  by_cases hy : y = x
  · subst hy
    have hbound : start ≤ j ∧ j < start + n → j < bitsOf y := fun hj => hj.2.trans_le h
    cases y <;>
      simp only [State.writeBits, frameBit, withSlice_getLsbD, true_and] <;>
      exact if_congr (and_iff_right_of_imp hbound) rfl rfl
  · rw [if_neg fun hc => hy hc.1]
    cases x with
    | a => cases y with
      | a => exact absurd rfl hy
      | b => rfl
    | b => cases y with
      | a => rfl
      | b => exact absurd rfl hy

/-- A write of a slice changes the work frames and nothing else. -/
theorem State.writeBits_frame {n : Nat} (s : State) (x : Slot) (start : Nat) (v : BitVec n) :
    s.writeBits x start v = { s with wA := (s.writeBits x start v).wA, wB := (s.writeBits x start v).wB } := by
  cases x <;> rfl

/-! ### NEWF (42_bitframe.md R171) -/

theorem newFrames_of_sf {s : State} (hv : s.cfg.variant = .sf) :
    newFrames s = { s with wB := s.cfg.sfTemplate, wvB := true } := by simp only [newFrames, hv]

theorem newFrames_of_df {s : State} (hv : s.cfg.variant = .df) :
    newFrames s = { s with wA := s.cfg.dfTemplateA, wB := s.cfg.dfTemplateB, wvA := true, wvB := true } := by
  simp only [newFrames, hv]

theorem exec_newf (s : State) : exec .newf s = .next ((newFrames s).setRes 0) := rfl

end Sys2Proof.Machine

open Sys2Proof Sys2Proof.Machine Sys2Proof.Statements

/-- Settles O29. -/
theorem getrReadsRange : Obligations.GetrReadsRange := by
  intro s f x start len hlen hx hv hr
  exact ⟨_, exec_getr_of_ok (State.rangeSlot_of_inside hlen hx hv hr),
    fun _ hj => s.readBits_setWidth_getLsbD x start len hj⟩

/-- Settles O30: of the data only the bits below the length reach the frame. -/
theorem setrWritesRange : Obligations.SetrWritesRange := by
  intro s f x start len data hlen hx hv hr
  refine ⟨_, exec_setr_of_ok (State.rangeSlot_of_inside hlen hx hv hr) data,
    congrArg (State.setRes · 0) (s.writeBits_frame x start _), fun y j => ?_⟩
  refine (frameBit_writeBits s x start (data.setWidth len) hr y j).trans ?_
  split
  · next h =>
    have hj : j - start < len := by omega
    rw [BitVec.getLsbD_setWidth, decide_eq_true hj, Bool.true_and]
  · rfl

/-- Settles O31. -/
theorem getbReadsByte : Obligations.GetbReadsByte := by
  intro s f x k p hx hv hk
  obtain ⟨hok, rfl⟩ := State.byteSlot_of_byte hx hv hk
  exact ⟨_, exec_getb_of_ok hok, fun _ hj => s.readBits_setWidth_getLsbD x _ 8 hj⟩

/-- Settles O32. -/
theorem setbWritesByte : Obligations.SetbWritesByte := by
  intro s f x k p v hx hv hk
  obtain ⟨hok, rfl⟩ := State.byteSlot_of_byte hx hv hk
  exact ⟨_, exec_setb_of_ok hok v, congrArg (State.setRes · 0) (s.writeBits_frame x _ v),
    frameBit_writeBits s x _ v (byteAt_le_bitsOf hk)⟩

/-- Settles O33, by the first check that fails. -/
theorem frameAccessFaults : Obligations.FrameAccessFaults := by
  intro s f
  refine ⟨fun start len data i hi => ⟨fun hlong => ?_, fun hlen hno => ?_, fun x hlen hx hv => ?_,
    fun x hlen hx hv hr => ?_⟩, fun k v i hi => ⟨fun hno => ?_, fun x hx hv => ?_, fun x hx hv hk => ?_⟩⟩
  · exact rangeAccess_raises (State.rangeSlot_of_long hlong) data i hi
  · exact rangeAccess_raises (State.rangeSlot_of_select_error hlen (State.select_of_no_frame hno)) data i hi
  · exact rangeAccess_raises (State.rangeSlot_of_select_error hlen (State.select_of_not_holds hx hv)) data i hi
  · exact rangeAccess_raises (State.rangeSlot_of_outside hlen (State.select_of_holds hx hv) hr) data i hi
  · exact byteAccess_raises (State.byteSlot_of_select_error (State.select_of_no_frame hno)) v i hi
  · exact byteAccess_raises (State.byteSlot_of_select_error (State.select_of_not_holds hx hv)) v i hi
  · exact byteAccess_raises (State.byteSlot_of_no_byte (State.select_of_holds hx hv) hk) v i hi

/-- Settles O28. -/
theorem newfLoadsTemplates : Obligations.NewfLoadsTemplates := by
  intro s
  refine ⟨fun hv => ?_, fun hv => ?_⟩
  · rw [exec_newf, newFrames_of_sf hv]
    rfl
  · rw [exec_newf, newFrames_of_df hv]
    rfl
end

section
/-! SUPPORT. The enumeration fields: the operand and the index as the statements say them, a setter and a getter said
once for all of them, and the places of the fields in W_B (43_fields.md R190 to R194, R199 to R211). -/

namespace Sys2Proof.Machine

open Sys2Proof.Statements

/-! ### The checks of a field command, each where the checks before it hold (43_fields.md R190, R192) -/

theorem State.needVariant_of_eq {s : State} {v : Variant} (h : s.cfg.variant = v) : s.needVariant v = .ok () := by
  rw [State.needVariant, decide_eq_true h, check_true]

theorem State.needFrame_of_valid {s : State} {x : Slot} (h : s.valid x = true) : s.needFrame x = .ok () := by
  rw [State.needFrame, h, check_true]

theorem State.needFrame_of_invalid {s : State} {x : Slot} (h : s.valid x = false) : s.needFrame x = .error .uninit := by
  rw [State.needFrame, h, check_false]

section
variable {w n : Nat} {arg : EnumArg} {pat : Vector (BitVec w) n}

theorem resolveEnum_eq_ok_iff_resolves {p : BitVec w} : resolveEnum arg pat = .ok p ↔ Resolves arg pat p := by
  rw [resolveEnum_eq_ok_iff, Resolves]
  refine or_congr (exists₂_congr fun _ _ => and_congr_right' eq_comm) (exists_congr fun code => and_congr_right' ?_)
  refine and_congr_right fun hlt => ?_
  rw [← BitVec.toNat_inj, BitVec.toNat_setWidth, Nat.mod_eq_of_lt hlt, eq_comm]

theorem resolveEnum_of_outOfRange (h : OutOfRange arg w n) : resolveEnum arg pat = .error .illegalOperand := by
  rcases h with ⟨index, rfl, hlt⟩ | ⟨code, rfl, hlt⟩
  · exact dif_neg hlt.not_gt
  · exact if_neg hlt.not_gt

theorem resolveEnum_of_inRange (h : ¬OutOfRange arg w n) : ∃ p, resolveEnum arg pat = .ok p := by
  cases arg with
  | named index =>
    have hlt : index < n := by_contra fun hge => h (.inl ⟨index, rfl, Nat.le_of_not_lt hge⟩)
    exact ⟨pat[index], dif_pos hlt⟩
  | raw code =>
    have hlt : code.toNat < 2 ^ w := by_contra fun hge => h (.inr ⟨code, rfl, Nat.le_of_not_lt hge⟩)
    exact ⟨code.setWidth w, if_pos hlt⟩

end

/-! ### `DecodeEnum` (43_fields.md R194) -/

section
variable {w n : Nat} {pat : Vector (BitVec w) n} {bits : BitVec w}

/-- The index is the first place of the pattern, or 0xFF where it has none. -/
theorem enumIndex_cases (pat : Vector (BitVec w) n) (bits : BitVec w) :
    (∃ h : enumIndex pat bits < n, pat[enumIndex pat bits] = bits ∧
        ∀ j, ∀ hj : j < enumIndex pat bits, pat[j] ≠ bits) ∨
      (enumIndex pat bits = 255 ∧ ∀ j, ∀ hj : j < n, pat[j] ≠ bits) := by
  cases hf : pat.toList.findIdx? (· == bits) with
  | none =>
    refine .inr ⟨by rw [enumIndex, hf]; rfl, fun j hj heq => ?_⟩
    have hne := List.findIdx?_eq_none_iff.mp hf pat[j] (by simp)
    simp [heq] at hne
  | some i =>
    have hi : enumIndex pat bits = i := by rw [enumIndex, hf]; rfl
    obtain ⟨hlt, hat, hbefore⟩ := List.findIdx?_eq_some_iff_getElem.mp hf
    subst hi
    exact .inl ⟨by simpa using hlt, by simpa using hat, fun j hj => by simpa using hbefore j hj⟩

theorem enumIndex_lt (hn : n ≤ 256) : enumIndex pat bits < 2 ^ 8 := by
  rcases enumIndex_cases pat bits with ⟨h, -⟩ | ⟨h, -⟩ <;> omega

/-- A pattern of a table without repeats decodes to its own place (00_scope.md R18). -/
theorem enumIndex_getElem {k : Nat} (hk : k < n) (hnodup : pat.toList.Nodup) : enumIndex pat pat[k] = k := by
  rcases enumIndex_cases pat pat[k] with ⟨h, hat, -⟩ | ⟨-, hnone⟩
  · have hplaces : enumIndex pat pat[k] < pat.toList.length ∧ k < pat.toList.length := by simpa using ⟨h, hk⟩
    exact (List.Nodup.getElem_inj_iff hnodup (hi := hplaces.1) (hj := hplaces.2)).mp (by simpa using hat)
  · exact absurd rfl (hnone k hk)

/-- An assembled word is its number. -/
theorem Assembles.eq_ofNat {x : Word} {width m : Nat} (h : Assembles x width m) : x = BitVec.ofNat 32 m := by
  rw [← h.1, BitVec.ofNat_toNat, BitVec.setWidth_eq]

theorem decodeEnum_eq (hw : w ≤ 8) (hn : n ≤ 256) :
    decodeEnum pat bits = BitVec.ofNat 32 (256 * enumIndex pat bits + bits.toNat) := by
  have hbits : bits.toNat < 2 ^ 8 := bits.isLt.trans_le (Nat.pow_le_pow_right (by decide) hw)
  have hsum := (assembles_fieldAt (lo := 0) hbits (by decide)).field (lo := 8)
    (enumIndex_lt (pat := pat) (bits := bits) hn) (by decide) (by decide)
  have hfields : decodeEnum pat bits = fieldAt 0 bits.toNat ||| fieldAt 8 (enumIndex pat bits) := by
    rw [decodeEnum, BitVec.or_comm, fieldAt, fieldAt, BitVec.shiftLeft_zero, BitVec.ofNat_toNat]
  rw [hfields, hsum.eq_ofNat]
  congr 1
  omega

theorem decodes_decodeEnum (hw : w ≤ 8) (hn : n ≤ 256) : Decodes pat bits (decodeEnum pat bits) := by
  rw [decodeEnum_eq hw hn]
  rcases enumIndex_cases pat bits with ⟨h, hat, hbefore⟩ | ⟨h, hnone⟩
  · exact .inl ⟨_, h, hat, hbefore, rfl⟩
  · exact .inr ⟨hnone, by rw [h]⟩

/-- The bits 8 to 15 of a decoded pattern are its place in the table. -/
theorem decodeEnum_getElem_index {k : Nat} (hw : w ≤ 8) (hn : n ≤ 256) (hk : k < n) (hnodup : pat.toList.Nodup) :
    (decodeEnum pat pat[k]).extractLsb' 8 8 = BitVec.ofNat 8 k := by
  have hbits : (pat[k]).toNat < 2 ^ 8 := (pat[k]).isLt.trans_le (Nat.pow_le_pow_right (by decide) hw)
  rw [decodeEnum_eq hw hn, enumIndex_getElem hk hnodup]
  apply BitVec.eq_of_toNat_eq
  simp only [BitVec.extractLsb'_toNat, BitVec.toNat_ofNat, Nat.shiftRight_eq_div_pow]
  omega

end

/-! ### Setters: operand, valid bit, then one write of W_B (43_fields.md R192) -/

/-- What an enumeration setter does once its variant is checked. -/
def State.putEnum {w n : Nat} (s : State) (arg : EnumArg) (pat : Vector (BitVec w) n)
    (write : BitVec w → FrameB → FrameB) : Except FaultCode State := do
  let p ← resolveEnum arg pat
  s.needFrame .b
  return { s with wB := write p s.wB, res := p.setWidth 32 }

/-- `put` is the setter that, in the variant `v`, writes a pattern of the table `pat` to W_B as `write` says. -/
def EnumSetter {w n : Nat} (put : EnumArg → Instr) (v : Variant) (pat : Config → Vector (BitVec w) n)
    (write : Config → EnumArg → BitVec w → FrameB → FrameB) : Prop :=
  ∀ (s : State) (arg : EnumArg), s.cfg.variant = v →
    exec (put arg) s = s.complete (s.putEnum arg (pat s.cfg) (write s.cfg arg))

/-- The write of a setter whose field is one slice of W_B. -/
def writeAt {w : Nat} (p : Config → Nat) (c : Config) (_arg : EnumArg) (x : BitVec w) (f : FrameB) : FrameB :=
  withSlice f (p c) x

/-- The write of SETMODE in the dual-frame variant: the mode nibble, and the misc bit where the operand has a value for
it (43_fields.md R199, R200). -/
def writeMode (c : Config) (arg : EnumArg) (x : BitVec 4) (f : FrameB) : FrameB :=
  match miscOf c arg with
  | .keep => withSlice f (modeAt c) x
  | .put bit => withSlice (withSlice f (modeAt c) x) (miscAt c) (BitVec.ofBool bit)

section
variable {w n : Nat} {s : State} {arg : EnumArg} {pat : Vector (BitVec w) n} {write : BitVec w → FrameB → FrameB}

theorem State.putEnum_of_resolved {x : BitVec w} (hw : s.wvB = true) (hx : resolveEnum arg pat = .ok x) :
    s.putEnum arg pat write = .ok { s with wB := write x s.wB, res := x.setWidth 32 } := by
  rw [State.putEnum, hx, State.needFrame_of_valid (x := .b) hw]
  rfl

theorem State.putEnum_of_operand_error {c : FaultCode} (hx : resolveEnum arg pat = .error c) :
    s.putEnum arg pat write = .error c := by
  rw [State.putEnum, hx]
  rfl

theorem State.putEnum_of_invalid {x : BitVec w} (hw : s.wvB = false) (hx : resolveEnum arg pat = .ok x) :
    s.putEnum arg pat write = .error .uninit := by
  rw [State.putEnum, hx, State.needFrame_of_invalid (x := .b) hw]
  rfl

theorem State.putNibble_eq_putEnum {pat : Vector (BitVec 4) n} {v : Variant} (hv : s.cfg.variant = v) (k j : Nat) :
    s.putNibble v arg pat k j =
      s.putEnum arg pat fun x f => withSlice f (nibbleStart v k j) x := by
  subst hv
  rw [State.putNibble, State.needVariant_of_eq rfl]
  rfl

end

theorem enumSetter_setmode_sf : EnumSetter .setmode .sf Config.sfModePat (writeAt fun c => 8 * c.sf.modeByte) := by
  intro s arg hv
  show s.complete (match s.cfg.variant with | .sf => setModeSF arg s | .df => setModeDF arg s) = _
  rw [hv]
  simp only [setModeSF, State.setByteB_eq, hv]
  rfl

theorem enumSetter_setmode_df : EnumSetter .setmode .df Config.dfModePat writeMode := by
  intro s arg hv
  have hwrite (x : BitVec 4) : (s.setNibbleB s.cfg.df.modeByte s.cfg.df.modeNibble x).writeMisc (miscOf s.cfg arg) =
      { s with wB := writeMode s.cfg arg x s.wB } := by
    unfold State.writeMisc writeMode
    cases miscOf s.cfg arg <;> simp only [State.setNibbleB_eq, State.setBitB_eq, State.writeBits_cfg, hv] <;> rfl
  show s.complete (match s.cfg.variant with | .sf => setModeSF arg s | .df => setModeDF arg s) = _
  rw [hv]
  simp only [setModeDF, hwrite]
  rfl

theorem enumSetter_setfpwr : EnumSetter .setfpwr .sf Config.sfPwrPat (writeAt powerAt) :=
  fun s _ hv => congrArg s.complete (State.putNibble_eq_putEnum hv _ _)

theorem enumSetter_setfang : EnumSetter .setfang .sf Config.sfAngPat (writeAt angleAt) :=
  fun s _ hv => congrArg s.complete (State.putNibble_eq_putEnum hv _ _)

theorem enumSetter_setfan : EnumSetter .setfan .df Config.dfFanPat (writeAt fanAt) :=
  fun s _ hv => congrArg s.complete (State.putNibble_eq_putEnum hv _ _)

theorem enumSetter_setswing : EnumSetter .setswing .df Config.dfSwingPat (writeAt swingAt) :=
  fun s _ hv => congrArg s.complete (State.putNibble_eq_putEnum hv _ _)

section
variable {w n : Nat} {put : EnumArg → Instr} {v : Variant} {pat : Config → Vector (BitVec w) n}
  {write : Config → EnumArg → BitVec w → FrameB → FrameB} {s : State} {arg : EnumArg}

theorem EnumSetter.exec_of_resolved (h : EnumSetter put v pat write) (hv : s.cfg.variant = v) (hw : s.wvB = true)
    {x : BitVec w} (hx : resolveEnum arg (pat s.cfg) = .ok x) :
    exec (put arg) s = .next { s with wB := write s.cfg arg x s.wB, res := BitVec.ofNat 32 x.toNat } := by
  rw [h s arg hv, State.putEnum_of_resolved hw hx, BitVec.ofNat_toNat]
  rfl

/-- The one write of a setter of one slice, bit by bit. -/
theorem EnumSetter.writesField {p : Config → Nat} (h : EnumSetter put v pat (writeAt p)) (hv : s.cfg.variant = v)
    (hw : s.wvB = true) {x : BitVec w} (hx : Resolves arg (pat s.cfg) x) :
    WritesField (put arg) s (p s.cfg) x := by
  refine ⟨_, h.exec_of_resolved hv hw (resolveEnum_eq_ok_iff_resolves.mpr hx), rfl, fun j hj => ?_⟩
  exact (withSlice_getLsbD s.wB (p s.cfg) x j).trans (if_congr (and_iff_right hj) rfl rfl)

/-- Whether a setter completes or faults: the constants and the valid bit stay, a faulting one keeps W_B, and one
without a frame keeps RES too. -/
theorem EnumSetter.exec_cases (h : EnumSetter put v pat write) (hv : s.cfg.variant = v) :
    ∃ t, exec (put arg) s = .next t ∧ t.cfg = s.cfg ∧ t.wvB = s.wvB ∧ (s.wvB = false → t.res = s.res) ∧
      (t.wB = s.wB ∨ ∃ x, t.wB = write s.cfg arg x s.wB) := by
  have hfault {c : FaultCode} (hc : s.putEnum arg (pat s.cfg) (write s.cfg arg) = .error c) :
      exec (put arg) s = .next (s.raise c false) := by rw [h s arg hv, hc]; rfl
  cases hx : resolveEnum arg (pat s.cfg) with
  | error c => exact ⟨_, hfault (State.putEnum_of_operand_error hx), by simp⟩
  | ok x =>
    cases hw : s.wvB with
    | false => exact ⟨_, hfault (State.putEnum_of_invalid hw hx), by simp [hw]⟩
    | true => exact ⟨_, h.exec_of_resolved hv hw hx, rfl, hw, nofun, .inr ⟨x, rfl⟩⟩

end

/-! ### Getters: valid bit, then one slice of W_B (43_fields.md R194) -/

/-- `get` is the getter that, in the variant `v`, decodes the slice of W_B from bit `p` with the table `pat`. -/
def EnumGetter {w n : Nat} (get : Instr) (v : Variant) (pat : Config → Vector (BitVec w) n)
    (p : Config → Nat) : Prop :=
  ∀ s : State, s.cfg.variant = v → exec get s =
    s.answer (s.needFrame .b >>= fun _ => pure (decodeEnum (pat s.cfg) (sliceOf s.wB (p s.cfg) w)))

theorem State.getNibble_eq {n : Nat} {s : State} {v : Variant} (hv : s.cfg.variant = v) (pat : Vector (BitVec 4) n)
    (k j : Nat) : s.getNibble v pat k j =
      s.needFrame .b >>= fun _ => pure (decodeEnum pat (sliceOf s.wB (nibbleStart v k j) 4)) := by
  subst hv
  rw [State.getNibble, State.needVariant_of_eq rfl]
  rfl

theorem exec_getmode (s : State) :
    exec .getmode s = s.answer (s.needFrame .b >>= fun _ => pure s.storedMode) := rfl

theorem enumGetter_getmode_sf : EnumGetter .getmode .sf Config.sfModePat fun c => 8 * c.sf.modeByte := by
  intro s hv
  rw [exec_getmode]
  simp only [State.storedMode, State.byteB, hv]
  rfl

theorem enumGetter_getmode_df : EnumGetter .getmode .df Config.dfModePat modeAt := by
  intro s hv
  rw [exec_getmode]
  simp only [State.storedMode, State.nibbleB, hv]
  rfl

theorem enumGetter_getfpwr : EnumGetter .getfpwr .sf Config.sfPwrPat powerAt :=
  fun s hv => congrArg s.answer (State.getNibble_eq hv _ _ _)

theorem enumGetter_getfang : EnumGetter .getfang .sf Config.sfAngPat angleAt :=
  fun s hv => congrArg s.answer (State.getNibble_eq hv _ _ _)

theorem enumGetter_getfan : EnumGetter .getfan .df Config.dfFanPat fanAt :=
  fun s hv => congrArg s.answer (State.getNibble_eq hv _ _ _)

theorem enumGetter_getswing : EnumGetter .getswing .df Config.dfSwingPat swingAt :=
  fun s hv => congrArg s.answer (State.getNibble_eq hv _ _ _)

/-- An answer behind the valid check of W_B, where it holds a frame. -/
theorem State.answer_of_valid {s : State} (hw : s.wvB = true) (r : Word) :
    s.answer (s.needFrame .b >>= fun _ => pure r) = .next { s with res := r } := by
  rw [State.needFrame_of_valid (x := .b) hw]
  rfl

theorem State.answer_of_invalid {s : State} {x : Slot} (hw : s.valid x = false) (f : Unit → Except FaultCode Word) :
    s.answer (s.needFrame x >>= f) = .next (s.raise .uninit false) := by
  rw [State.needFrame_of_invalid hw]
  rfl

section
variable {w n : Nat} {get : Instr} {v : Variant} {pat : Config → Vector (BitVec w) n} {p : Config → Nat} {s : State}

theorem EnumGetter.exec_of_valid (h : EnumGetter get v pat p) (hv : s.cfg.variant = v) (hw : s.wvB = true) :
    exec get s = .next { s with res := decodeEnum (pat s.cfg) (sliceOf s.wB (p s.cfg) w) } := by
  rw [h s hv, State.answer_of_valid hw]

theorem EnumGetter.getsField (h : EnumGetter get v pat p) (hw8 : w ≤ 8) (hn : n ≤ 256) : GetsField get v pat p :=
  fun _ hv hw => ⟨_, h.exec_of_valid hv hw, decodes_decodeEnum hw8 hn⟩

/-- What RES shows after a getter, whether it answers or faults. -/
theorem EnumGetter.res_eq (h : EnumGetter get v pat p) (hv : s.cfg.variant = v) :
    ∃ u, exec get s = .next u ∧
      u.res = if s.wvB = true then decodeEnum (pat s.cfg) (sliceOf s.wB (p s.cfg) w) else s.res := by
  cases hw : s.wvB with
  | true => exact ⟨_, h.exec_of_valid hv hw, rfl⟩
  | false => exact ⟨_, (h s hv).trans (State.answer_of_invalid (x := .b) hw _), by simp⟩

end

/-! ### A setter and a getter of one variant -/

section
variable {w w' n n' : Nat} {put : EnumArg → Instr} {get : Instr} {v : Variant} {pat : Config → Vector (BitVec w) n}
  {pat' : Config → Vector (BitVec w') n'} {write : Config → EnumArg → BitVec w → FrameB → FrameB}
  {p q : Config → Nat} {s : State}

/-- A named value reads back where the table has no repeats and the getter's slice shows what was written
(43_fields.md R212). -/
theorem EnumSetter.named_reads_back (hput : EnumSetter put v pat write) (hget : EnumGetter get v pat p) (hw8 : w ≤ 8)
    (hn : n ≤ 256) (hv : s.cfg.variant = v) (hw : s.wvB = true) (hnodup : (pat s.cfg).toList.Nodup)
    (hslice : ∀ arg x f, sliceOf (write s.cfg arg x f) (p s.cfg) w = x) {k : Nat} (hk : k < n) :
    ∃ t u, exec (put (.named k)) s = .next t ∧ exec get t = .next u ∧
      u.res.extractLsb' 8 8 = BitVec.ofNat 8 k := by
  refine ⟨_, _, hput.exec_of_resolved hv hw (dif_pos hk),
    hget.exec_of_valid (s := { s with wB := _, res := _ }) hv hw, ?_⟩
  show (decodeEnum (pat s.cfg) (sliceOf (write s.cfg (.named k) (pat s.cfg)[k] s.wB) (p s.cfg) w)).extractLsb' 8 8 = _
  rw [hslice]
  exact decodeEnum_getElem_index hw8 hn hk hnodup

/-- A setter does not change what the getter of a slice that it does not meet answers, and neither does its fault
(43_fields.md R213). -/
theorem EnumSetter.keeps_getter (hput : EnumSetter put v pat (writeAt p)) (hget : EnumGetter get v pat' q)
    (hv : s.cfg.variant = v) (hapart : q s.cfg + w' ≤ p s.cfg ∨ p s.cfg + w ≤ q s.cfg) (arg : EnumArg) :
    ∃ t u u', exec (put arg) s = .next t ∧ exec get s = .next u ∧ exec get t = .next u' ∧ u'.res = u.res := by
  obtain ⟨t, ht, hcfg, hwv, hres, hwB⟩ := hput.exec_cases (arg := arg) hv
  obtain ⟨u, hu, hures⟩ := hget.res_eq hv
  obtain ⟨u', hu', hures'⟩ := hget.res_eq (s := t) (hcfg ▸ hv)
  have hslice : sliceOf t.wB (q s.cfg) w' = sliceOf s.wB (q s.cfg) w' := by
    rcases hwB with hwB | ⟨x, hwB⟩ <;> rw [hwB]
    exact sliceOf_withSlice_of_disjoint _ _ _ x hapart
  refine ⟨t, u, u', ht, hu, hu', ?_⟩
  rw [hures, hures', hcfg, hwv, hslice]
  split
  · rfl
  · next hw => exact hres (Bool.not_eq_true _ ▸ hw)

end

/-! ### Where the fields lie (00_scope.md R16, R17; 43_fields.md R193, R203) -/

section
variable {c : Config}

/-- A named byte of the single-frame layout lies inside W_B. -/
theorem sfNamed_le (h : c.Ok) {k : Nat} (hk : k ∈ c.sf.named) : 8 * k + 8 ≤ 152 := by
  obtain ⟨-, -, ⟨-, hle, -⟩, -⟩ := h
  have := hle k hk
  omega

/-- A named byte of the dual-frame layout lies inside W_B. -/
theorem dfNamed_le (h : c.Ok) {k : Nat} (hk : k ∈ c.df.modeByte :: c.df.miscByte :: c.df.unshared) :
    8 * (k - 1) + 8 ≤ 152 := by
  obtain ⟨-, -, -, ⟨hle, -⟩, -⟩ := h
  have := hle k hk
  omega

theorem powerAt_le (h : c.Ok) : powerAt c + 4 ≤ 152 := by
  have hfan := sfNamed_le h (k := c.sf.fanByte) (by simp)
  unfold powerAt
  omega

theorem angleAt_le (h : c.Ok) : angleAt c + 4 ≤ 152 := by
  have hfan := sfNamed_le h (k := c.sf.fanByte) (by simp)
  unfold angleAt
  omega

theorem fanAt_le (h : c.Ok) : fanAt c + 4 ≤ 152 := by
  have hfs := dfNamed_le h (k := c.df.fsByte) (by simp)
  unfold fanAt
  omega

theorem swingAt_le (h : c.Ok) : swingAt c + 4 ≤ 152 := by
  have hfs := dfNamed_le h (k := c.df.fsByte) (by simp)
  unfold swingAt
  omega

theorem modeAt_le (h : c.Ok) : modeAt c + 4 ≤ 152 := by
  have hmode := dfNamed_le h (k := c.df.modeByte) (by simp)
  unfold modeAt
  omega

theorem miscAt_lt (h : c.Ok) : miscAt c < 152 := by
  have hmisc := dfNamed_le h (k := c.df.miscByte) (by simp)
  unfold miscAt
  omega

/-- The misc bit lies outside the mode nibble (00_scope.md R17). -/
theorem miscAt_outside_mode (h : c.Ok) : ¬(modeAt c ≤ miscAt c ∧ miscAt c < modeAt c + 4) := by
  obtain ⟨-, -, -, ⟨hbytes, hapart, -⟩, -⟩ := h
  have hmode := hbytes c.df.modeByte (by simp)
  have hmisc := hbytes c.df.miscByte (by simp)
  unfold modeAt miscAt
  omega

/-- The two nibbles of the fan and swing byte do not meet (43_fields.md R203). -/
theorem fanAt_swingAt_disjoint (c : Config) : swingAt c + 4 ≤ fanAt c ∨ fanAt c + 4 ≤ swingAt c := by
  unfold fanAt swingAt
  omega

theorem powerAt_eq (c : Config) : powerAt c = angleAt c + 4 := rfl

end

/-! ### The dual-frame mode write, bit by bit (43_fields.md R200) -/

section
variable {c : Config} {arg : EnumArg} {x : BitVec 4} {f : FrameB}

theorem writeMode_getLsbD_of_ne {j : Nat} (hj : j < 152) (hne : j ≠ miscAt c) : (writeMode c arg x f).getLsbD j =
    if modeAt c ≤ j ∧ j < modeAt c + 4 then x.getLsbD (j - modeAt c) else f.getLsbD j := by
  have hmode := (withSlice_getLsbD f (modeAt c) x j).trans (if_congr (and_iff_right hj) rfl rfl)
  unfold writeMode
  split
  · exact hmode
  · rw [withSlice_ofBool_getLsbD _ _ _ hj, if_neg hne, hmode]

theorem writeMode_getLsbD_misc_of_keep (h : c.Ok) (hm : miscOf c arg = .keep) :
    (writeMode c arg x f).getLsbD (miscAt c) = f.getLsbD (miscAt c) := by
  rw [writeMode, hm]
  exact (withSlice_getLsbD f (modeAt c) x _).trans (if_neg fun hc => miscAt_outside_mode h hc.2)

theorem writeMode_getLsbD_misc_of_put (h : c.Ok) {bit : Bool} (hm : miscOf c arg = .put bit) :
    (writeMode c arg x f).getLsbD (miscAt c) = bit := by
  rw [writeMode, hm]
  exact (withSlice_ofBool_getLsbD _ _ _ (miscAt_lt h)).trans (if_pos rfl)

theorem miscOf_named (c : Config) {index : Nat} (h : index < 5) : miscOf c (.named index) = c.dfMiscVal[index] := by
  simp [miscOf, h]

/-- The mode nibble reads back behind the write of the misc bit. -/
theorem sliceOf_writeMode (h : c.Ok) : sliceOf (writeMode c arg x f) (modeAt c) 4 = x := by
  have hmode := sliceOf_withSlice f (modeAt c) x (modeAt_le h)
  unfold writeMode
  split
  · exact hmode
  · rw [sliceOf_withSlice_of_disjoint, hmode]
    have := miscAt_outside_mode h
    omega

end

end Sys2Proof.Machine

open Sys2Proof Sys2Proof.Machine Sys2Proof.Statements

/-- Settles O38. -/
theorem setmodeSingleFrame : Obligations.SetmodeSingleFrame :=
  fun _ _ _ hv hw hx => enumSetter_setmode_sf.writesField hv hw hx

/-- Settles O39: the layout keeps the misc bit apart from the mode nibble. -/
theorem setmodeDualFrame : Obligations.SetmodeDualFrame := by
  intro s arg p hok hv hw hx
  have hp := resolveEnum_eq_ok_iff_resolves.mpr hx
  refine ⟨_, enumSetter_setmode_df.exec_of_resolved hv hw hp, rfl,
    fun j hj hne => writeMode_getLsbD_of_ne hj hne, ?_, ?_⟩
  · rintro index h rfl
    exact ⟨fun b hb => writeMode_getLsbD_misc_of_put hok ((miscOf_named _ h).trans hb),
      fun hk => writeMode_getLsbD_misc_of_keep hok ((miscOf_named _ h).trans hk)⟩
  · rintro code rfl
    exact writeMode_getLsbD_misc_of_keep hok rfl

/-- Settles O40. -/
theorem nibbleSettersWriteOwnNibble : Obligations.NibbleSettersWriteOwnNibble :=
  ⟨fun _ _ _ hv hw hx => enumSetter_setfpwr.writesField hv hw hx,
    fun _ _ _ hv hw hx => enumSetter_setfang.writesField hv hw hx,
    fun _ _ _ hv hw hx => enumSetter_setfan.writesField hv hw hx,
    fun _ _ _ hv hw hx => enumSetter_setswing.writesField hv hw hx⟩

/-- Settles O41. -/
theorem enumGettersDecode : Obligations.EnumGettersDecode :=
  ⟨enumGetter_getmode_sf.getsField (by decide) (by decide), enumGetter_getmode_df.getsField (by decide) (by decide),
    enumGetter_getfpwr.getsField (by decide) (by decide), enumGetter_getfang.getsField (by decide) (by decide),
    enumGetter_getfan.getsField (by decide) (by decide), enumGetter_getswing.getsField (by decide) (by decide)⟩

/-- Settles O43: the two nibbles of a byte do not meet. -/
theorem nibbleFieldsAreIndependent : Obligations.NibbleFieldsAreIndependent := by
  intro s arg
  have hsf := powerAt_eq s.cfg
  have hdf := fanAt_swingAt_disjoint s.cfg
  refine ⟨fun hv => ⟨?_, ?_⟩, fun hv => ⟨?_, ?_⟩⟩
  · exact enumSetter_setfpwr.keeps_getter enumGetter_getfang hv (.inl hsf.ge) arg
  · exact enumSetter_setfang.keeps_getter enumGetter_getfpwr hv (.inr hsf.ge) arg
  · exact enumSetter_setfan.keeps_getter enumGetter_getswing hv hdf arg
  · exact enumSetter_setswing.keeps_getter enumGetter_getfan hv hdf.symm arg
end

section
/-! SUPPORT. The temperature: the clamp and the results as the statements say them, the three places of the temperature
in W_B, and what SETTEMP writes there, bit by bit (43_fields.md R195 to R198). -/

namespace Sys2Proof.Machine

open Sys2Proof.Statements

/-! ### The clamp and the result (43_fields.md R195, R196) -/

theorem clamp_eq (t2 : Nat) : clamp t2 = ⟨clamped t2, limited t2⟩ := by
  unfold clamp clamped limited
  by_cases hlow : t2 ≤ 32
  · simp [hlow]
  · by_cases hhigh : 60 ≤ t2 <;> simp [hlow, hhigh]

theorem clamped_le (t2 : Nat) : clamped t2 ≤ 60 := by
  unfold clamped
  split_ifs <;> omega

theorem tempByteOf_eq (v : Variant) (t2c : Nat) : tempByteOf v (t2c / 2) = BitVec.ofNat 8 (tempNumber v t2c) := by
  cases v <;> rfl

theorem degreesOf_eq (v : Variant) (b : BitVec 8) : degreesOf v b = if v = .sf then b.toNat / 2 else b.toNat := by
  cases v <;> rfl

theorem degreesOf_le (v : Variant) (b : BitVec 8) : degreesOf v b ≤ 255 := by
  have := b.isLt
  rw [degreesOf_eq]
  split <;> omega

/-- The temperature byte of a clamped temperature holds its whole degrees. -/
theorem degreesOf_tempNumber (v : Variant) {t2c : Nat} (h : t2c ≤ 60) :
    degreesOf v (BitVec.ofNat 8 (tempNumber v t2c)) = t2c / 2 := by
  cases v <;> simp only [degreesOf, tempNumber, BitVec.toNat_ofNat] <;> omega

theorem tempResult_eq_tempRes (limit half : Bool) {t2 : Nat} (h : t2 < 2 ^ 16) :
    tempResult limit half t2 = tempRes limit half t2 := by
  have hflag (b : Bool) : (BitVec.ofBool b).setWidth 32 = BitVec.ofNat 32 b.toNat := by cases b <;> rfl
  have hfields : tempResult limit half t2 = fieldAt 0 t2 ||| fieldAt 16 half.toNat ||| fieldAt 17 limit.toNat := by
    rw [tempResult, hflag, hflag, BitVec.or_comm, BitVec.or_comm (BitVec.ofNat 32 limit.toNat <<< 17),
      ← BitVec.or_assoc, fieldAt, fieldAt, fieldAt, BitVec.shiftLeft_zero]
  have hsum := ((assembles_fieldAt (lo := 0) h (by decide)).field (lo := 16) (width := 1) half.toNat_lt (by decide)
    (by decide)).field (lo := 17) (width := 1) limit.toNat_lt (by decide) (by decide)
  rw [hfields, hsum.eq_ofNat, tempRes]
  congr 1
  omega

theorem tempRes_value (limit half : Bool) {t2 : Nat} : (tempRes limit half t2).extractLsb' 0 9 = BitVec.ofNat 9 t2 := by
  apply BitVec.eq_of_toNat_eq
  simp only [tempRes, BitVec.extractLsb'_toNat, BitVec.toNat_ofNat, Nat.shiftRight_zero]
  omega

theorem tempRes_limit (limit half : Bool) {t2 : Nat} (h : t2 < 2 ^ 16) :
    (tempRes limit half t2).getLsbD 17 = limit := by
  have hhalf := half.toNat_lt
  have hbit : (131072 * limit.toNat + 65536 * half.toNat + t2) / 2 ^ 17 % 2 = limit.toNat := by
    have := limit.toNat_lt
    omega
  rw [tempRes, BitVec.getLsbD_ofNat, Nat.testBit_eq_decide_div_mod_eq, hbit]
  cases limit <;> rfl

/-! ### Where the temperature lies (00_scope.md R16, R17; 43_fields.md R196) -/

theorem tempLayout_eq (c : Config) : tempLayout c =
    ((tempFields c).tempByte, (tempFields c).tmodByte, (tempFields c).halfBit, (tempFields c).limitBit) := by
  unfold tempLayout tempFields
  cases c.variant <;> rfl

theorem byteAt_eq_byteStart (c : Config) (k : Nat) : byteAt c k = byteStart c.variant k := by
  unfold byteAt byteStart
  cases c.variant <;> rfl

/-- The first bit of the temperature byte. -/
def tempAt (c : Config) : Nat := byteAt c (tempFields c).tempByte

/-- The half bit. -/
def halfAt (c : Config) : Nat := byteAt c (tempFields c).tmodByte + (tempFields c).halfBit

/-- The limit bit. -/
def limitAt (c : Config) : Nat := byteAt c (tempFields c).tmodByte + (tempFields c).limitBit

/-- The temperature byte and the two bits lie in W_B and do not meet. -/
structure TempFieldsApart (c : Config) : Prop where
  byte_le : tempAt c + 8 ≤ 152
  half_lt : halfAt c < 152
  limit_lt : limitAt c < 152
  half_outside : ¬(tempAt c ≤ halfAt c ∧ halfAt c < tempAt c + 8)
  limit_outside : ¬(tempAt c ≤ limitAt c ∧ limitAt c < tempAt c + 8)
  half_ne_limit : halfAt c ≠ limitAt c

/-- Two different bytes of W_B, and two different bits of the second one. -/
theorem tempFieldsApart_of {c : Config} {temp tmod : Nat} {half limit : Fin 8} (htemp : tempAt c = 8 * temp)
    (hhalf : halfAt c = 8 * tmod + half.val) (hlimit : limitAt c = 8 * tmod + limit.val) (htemp_le : temp ≤ 18)
    (htmod_le : tmod ≤ 18) (hbytes : temp ≠ tmod) (hbits : half ≠ limit) : TempFieldsApart c := by
  have hvals : half.val ≠ limit.val := Fin.val_ne_of_ne hbits
  constructor <;> omega

theorem tempFieldsApart {c : Config} (h : c.Ok) : TempFieldsApart c := by
  obtain ⟨-, -, ⟨hsfNodup, hsfLe, hsfBits, -⟩, ⟨hdfLe, -, hdfNodup, -, -, hdfBits⟩, -⟩ := h
  cases hv : c.variant with
  | sf =>
    have hbytes : c.sf.tempByte ≠ c.sf.tmodByte := by
      rintro heq
      simp [heq] at hsfNodup
    refine tempFieldsApart_of ?_ ?_ ?_ (hsfLe _ (by simp)) (hsfLe _ (by simp)) hbytes hsfBits <;>
      simp only [tempAt, halfAt, limitAt, byteAt, tempFields, hv]
  | df =>
    have htemp := hdfLe c.df.tempByte (by simp)
    have htmod := hdfLe c.df.tmodByte (by simp)
    have hbytes : c.df.tempByte - 1 ≠ c.df.tmodByte - 1 := by
      intro heq
      have heq : c.df.tempByte = c.df.tmodByte := by omega
      simp [heq] at hdfNodup
    refine tempFieldsApart_of ?_ ?_ ?_ (by omega) (by omega) hbytes hdfBits <;>
      simp only [tempAt, halfAt, limitAt, byteAt, tempFields, hv]

/-! ### SETTEMP and GETTEMP (43_fields.md R197, R198) -/

section
variable {s : State}

/-- W_B with a clamped temperature stored. -/
def tempWritten (c : Config) (t2 : Nat) (f : FrameB) : FrameB :=
  withSlice (withSlice (withSlice f (tempAt c) (BitVec.ofNat 8 (tempNumber c.variant (clamped t2)))) (halfAt c)
    (BitVec.ofBool (decide (clamped t2 % 2 = 1)))) (limitAt c) (BitVec.ofBool (limited t2))

theorem State.storeTemp_clamp (s : State) (t2 : Nat) :
    s.storeTemp (clamp t2) = { s with wB := tempWritten s.cfg t2 s.wB } := by
  rw [State.storeTemp_eq, clamp_eq, tempByteOf_eq]
  simp only [tempWritten, tempAt, halfAt, limitAt, byteAt_eq_byteStart]
  rfl

theorem exec_settemp_of_valid (hw : s.wvB = true) (t2 : Nat) : exec (.settemp t2) s = .next { s with
    wB := tempWritten s.cfg t2 s.wB
    res := tempRes (limited t2) (decide (clamped t2 % 2 = 1)) (clamped t2) } := by
  show s.complete (s.needFrame .b >>= fun _ => pure ((s.storeTemp (clamp t2)).setRes
    (tempResult (clamp t2).limit (halfOf (clamp t2)) (clamp t2).t2c))) = _
  rw [State.needFrame_of_valid (x := .b) hw, State.storeTemp_clamp, clamp_eq,
    tempResult_eq_tempRes _ _ ((clamped_le t2).trans_lt (by decide))]
  rfl

theorem State.bitB_eq (s : State) (k i : Nat) : s.bitB k i = s.wB.getLsbD (byteAt s.cfg k + i) := by
  have hone : ∀ b : BitVec 1, (b == 1#1) = b.getLsbD 0 := by decide
  have hbit : s.bitB k i = (sliceOf s.wB (byteStart s.cfg.variant k + i) 1).getLsbD 0 := hone _
  rw [hbit, sliceOf_getLsbD, byteAt_eq_byteStart, decide_eq_true Nat.one_pos, Bool.true_and, Nat.add_zero]

theorem State.storedTemp_eq (s : State) : s.storedTemp = tempRes (s.wB.getLsbD (limitAt s.cfg))
    (s.wB.getLsbD (halfAt s.cfg))
    (2 * degreesOf s.cfg.variant (sliceOf s.wB (tempAt s.cfg) 8) + (s.wB.getLsbD (halfAt s.cfg)).toNat) := by
  have hdegrees := degreesOf_le s.cfg.variant (sliceOf s.wB (tempAt s.cfg) 8)
  have hhalf := (s.wB.getLsbD (halfAt s.cfg)).toNat_lt
  rw [← tempResult_eq_tempRes _ _ (by omega)]
  simp only [State.storedTemp, State.bitB_eq, State.byteB, tempAt, byteAt_eq_byteStart]
  rfl

theorem exec_gettemp (s : State) :
    exec .gettemp s = s.answer (s.needFrame .b >>= fun _ => pure s.storedTemp) := rfl

theorem exec_gettemp_of_valid (hw : s.wvB = true) : exec .gettemp s = .next { s with res := s.storedTemp } := by
  rw [exec_gettemp, State.answer_of_valid hw]

end

section
variable {c : Config} {t2 : Nat} {f : FrameB}

/-- SETTEMP's three writes, bit by bit: no one of them overwrites another. -/
theorem tempWritten_getLsbD (h : TempFieldsApart c) {j : Nat} (hj : j < 152) : (tempWritten c t2 f).getLsbD j =
    if tempAt c ≤ j ∧ j < tempAt c + 8 then (tempNumber c.variant (clamped t2)).testBit (j - tempAt c)
    else if j = halfAt c then decide (clamped t2 % 2 = 1)
    else if j = limitAt c then limited t2
    else f.getLsbD j := by
  rw [tempWritten, withSlice_ofBool_getLsbD _ _ _ hj, withSlice_ofBool_getLsbD _ _ _ hj, withSlice_getLsbD]
  by_cases hbyte : tempAt c ≤ j ∧ j < tempAt c + 8
  · have hhalf : j ≠ halfAt c := fun e => h.half_outside (e ▸ hbyte)
    have hlimit : j ≠ limitAt c := fun e => h.limit_outside (e ▸ hbyte)
    have hplace : j - tempAt c < 8 := by omega
    rw [if_neg hlimit, if_neg hhalf, if_pos ⟨hj, hbyte⟩, if_pos hbyte, BitVec.getLsbD_ofNat, decide_eq_true hplace,
      Bool.true_and]
  · have hout : ¬(j < 152 ∧ tempAt c ≤ j ∧ j < tempAt c + 8) := fun hc => hbyte hc.2
    rw [if_neg hbyte, if_neg hout]
    by_cases hhalf : j = halfAt c
    · have hlimit : j ≠ limitAt c := fun e => h.half_ne_limit (hhalf ▸ e)
      rw [if_neg hlimit, if_pos hhalf, if_pos hhalf]
    · rw [if_neg hhalf, if_neg hhalf]

theorem tempWritten_half (h : TempFieldsApart c) :
    (tempWritten c t2 f).getLsbD (halfAt c) = decide (clamped t2 % 2 = 1) := by
  rw [tempWritten_getLsbD h h.half_lt, if_neg h.half_outside, if_pos rfl]

theorem tempWritten_limit (h : TempFieldsApart c) : (tempWritten c t2 f).getLsbD (limitAt c) = limited t2 := by
  rw [tempWritten_getLsbD h h.limit_lt, if_neg h.limit_outside, if_neg h.half_ne_limit.symm, if_pos rfl]

theorem tempWritten_byte (h : TempFieldsApart c) : sliceOf (tempWritten c t2 f) (tempAt c) 8 =
    BitVec.ofNat 8 (tempNumber c.variant (clamped t2)) := by
  have hhalf := h.half_outside
  have hlimit := h.limit_outside
  rw [tempWritten, sliceOf_withSlice_of_disjoint _ _ _ _ (by omega), sliceOf_withSlice_of_disjoint _ _ _ _ (by omega),
    sliceOf_withSlice _ _ _ h.byte_le]

end

/-- A stored temperature reads back clamped, with its limit bit. -/
theorem storedTemp_of_tempWritten {s : State} (h : TempFieldsApart s.cfg) (t2 : Nat) (r : Word) :
    { s with wB := tempWritten s.cfg t2 s.wB, res := r }.storedTemp =
      tempRes (limited t2) (decide (clamped t2 % 2 = 1)) (clamped t2) := by
  have hvalue : 2 * (clamped t2 / 2) + (decide (clamped t2 % 2 = 1)).toNat = clamped t2 := by
    by_cases hodd : clamped t2 % 2 = 1 <;> simp only [hodd, decide_true, decide_false, Bool.toNat_true,
      Bool.toNat_false] <;> omega
  rw [State.storedTemp_eq]
  dsimp only
  rw [tempWritten_limit h, tempWritten_half h, tempWritten_byte h, degreesOf_tempNumber _ (clamped_le t2), hvalue]

end Sys2Proof.Machine

open Sys2Proof Sys2Proof.Machine Sys2Proof.Statements

/-- Settles O36: the layout keeps the three writes apart. -/
theorem settempStoresTemperature : Obligations.SettempStoresTemperature := by
  intro s t2 hok hw
  rw [tempLayout_eq]
  exact ⟨_, exec_settemp_of_valid hw t2, rfl, fun j hj => tempWritten_getLsbD (tempFieldsApart hok) hj⟩

/-- Settles O37. -/
theorem gettempReadsTemperature : Obligations.GettempReadsTemperature := by
  intro s hw
  rw [tempLayout_eq]
  dsimp only
  rw [exec_gettemp_of_valid hw, s.storedTemp_eq, degreesOf_eq]
  rfl

/-- Settles O42: tables without repeats give each named value its own index, and the fields of a well-formed block do
not meet. -/
theorem fieldsRoundTrip : Obligations.FieldsRoundTrip := by
  intro s hok hw
  obtain ⟨-, -, -, -, hsfMode, hsfPwr, hsfAng, hdfMode, hdfFan, hdfSwing, -⟩ := id hok
  refine ⟨fun k hk => ?_, fun hv => ⟨fun k hk => ?_, fun k hk => ?_⟩, fun hv => ⟨fun k hk => ?_, fun k hk => ?_⟩,
    fun t2 => ?_⟩
  · cases hv : s.cfg.variant with
    | sf =>
      exact enumSetter_setmode_sf.named_reads_back enumGetter_getmode_sf (by decide) (by decide) hv hw hsfMode
        (fun _ x f => sliceOf_withSlice f _ x (sfNamed_le hok (by simp))) hk
    | df =>
      exact enumSetter_setmode_df.named_reads_back enumGetter_getmode_df (by decide) (by decide) hv hw hdfMode
        (fun _ _ _ => sliceOf_writeMode hok) hk
  · exact enumSetter_setfpwr.named_reads_back enumGetter_getfpwr (by decide) (by decide) hv hw hsfPwr
      (fun _ x f => sliceOf_withSlice f _ x (powerAt_le hok)) hk
  · exact enumSetter_setfang.named_reads_back enumGetter_getfang (by decide) (by decide) hv hw hsfAng
      (fun _ x f => sliceOf_withSlice f _ x (angleAt_le hok)) hk
  · exact enumSetter_setfan.named_reads_back enumGetter_getfan (by decide) (by decide) hv hw hdfFan
      (fun _ x f => sliceOf_withSlice f _ x (fanAt_le hok)) hk
  · exact enumSetter_setswing.named_reads_back enumGetter_getswing (by decide) (by decide) hv hw hdfSwing
      (fun _ x f => sliceOf_withSlice f _ x (swingAt_le hok)) hk
  · refine ⟨_, _, exec_settemp_of_valid hw t2, exec_gettemp_of_valid (s := { s with wB := _, res := _ }) hw, ?_⟩
    dsimp only
    rw [storedTemp_of_tempWritten (tempFieldsApart hok)]
    exact ⟨tempRes_value _ _, tempRes_limit _ _ ((clamped_le t2).trans_lt (by decide))⟩
end

section
/-! SUPPORT. The faults of the commands on W_B: a bad operand before an invalid frame (60_exceptions.md R253). -/

namespace Sys2Proof.Machine

open Sys2Proof.Statements

section
variable {i : Instr} {s : State}

theorem raises_of_error {c : FaultCode} {r : Except FaultCode State} (he : exec i s = s.complete r)
    (hr : r = .error c) : Raises i s c := by
  rw [Raises, he, hr]
  rfl

/-- A command that first checks the valid bit of a frame raises UNINIT where it is clear. -/
theorem raises_uninit {x : Slot} {f : Unit → Except FaultCode State} (hx : s.valid x = false)
    (he : exec i s = s.complete (s.needFrame x >>= f)) : Raises i s .uninit :=
  raises_of_error he (by rw [State.needFrame_of_invalid hx]; rfl)

/-- The same for a command that only answers. -/
theorem answer_raises_uninit {x : Slot} {f : Unit → Except FaultCode Word} (hx : s.valid x = false)
    (he : exec i s = s.answer (s.needFrame x >>= f)) : Raises i s .uninit := by
  rw [Raises, he, State.answer_of_invalid hx]
  rfl

end

/-- A setter's faults: the operand before the valid bit (43_fields.md R190, R192). -/
theorem EnumSetter.faults {w n : Nat} {put : EnumArg → Instr} {v : Variant} {pat : Config → Vector (BitVec w) n}
    {write : Config → EnumArg → BitVec w → FrameB → FrameB} (h : EnumSetter put v pat write) {s : State}
    (hv : s.cfg.variant = v) (arg : EnumArg) :
    (OutOfRange arg w n → Raises (put arg) s .illegalOperand) ∧
      (¬OutOfRange arg w n → s.wvB = false → Raises (put arg) s .uninit) := by
  refine ⟨fun hout => ?_, fun hin hw => ?_⟩
  · exact raises_of_error (h s arg hv) (State.putEnum_of_operand_error (resolveEnum_of_outOfRange hout))
  · obtain ⟨x, hx⟩ := resolveEnum_of_inRange (pat := pat s.cfg) hin
    exact raises_of_error (h s arg hv) (State.putEnum_of_invalid hw hx)

theorem EnumGetter.raises_uninit {w n : Nat} {get : Instr} {v : Variant} {pat : Config → Vector (BitVec w) n}
    {p : Config → Nat} (h : EnumGetter get v pat p) {s : State} (hv : s.cfg.variant = v) (hw : s.wvB = false) :
    Raises get s .uninit := answer_raises_uninit (x := .b) hw (h s hv)

section
variable {s : State}

theorem leadMatches_of_sf_invalid (hv : s.cfg.variant = .sf) (hw : s.wvB = false) : leadMatches s = .error .uninit := by
  rw [leadMatches, hv]
  simp only [State.needFrame_of_invalid (x := .b) hw]
  rfl

theorem leadMatches_of_df_invalid (hv : s.cfg.variant = .df) (hw : s.wvA = false) : leadMatches s = .error .uninit := by
  rw [leadMatches, hv]
  simp only [State.needFrame_of_invalid (x := .a) hw]
  rfl

theorem chklead_raises_uninit (h : leadMatches s = .error .uninit) : Raises .chklead s .uninit := by
  show execChklead s = _
  rw [execChklead, h]
  rfl

theorem exec_emit_of_sf (hv : s.cfg.variant = .sf) : exec .emit s = s.complete (s.needFrame .b >>= fun _ =>
    pure ((s.emitPairs (emitFrame s.cfg s.wB)).setRes 308)) := by
  show execEmit s = _
  simp only [execEmit, hv]

theorem exec_emit_of_df (hv : s.cfg.variant = .df) :
    exec .emit s = s.complete (s.needFrame .a >>= fun _ => s.needFrame .b >>= fun _ =>
      pure ((s.emitPairs (emitFrame s.cfg s.wA ++ emitFrame s.cfg s.wB)).setRes 440)) := by
  show execEmit s = _
  simp only [execEmit, hv]

theorem emit_raises_uninit_of_a (hv : s.cfg.variant = .df) (hw : s.wvA = false) : Raises .emit s .uninit :=
  raises_uninit (x := .a) hw (exec_emit_of_df hv)

/-- Without a frame in W_B, EMIT faults in both variants, and with the same fault where W_A has none either. -/
theorem emit_raises_uninit_of_b (hw : s.wvB = false) : Raises .emit s .uninit := by
  cases hv : s.cfg.variant with
  | sf => exact raises_uninit (x := .b) hw (exec_emit_of_sf hv)
  | df =>
    cases ha : s.wvA with
    | false => exact emit_raises_uninit_of_a hv ha
    | true =>
      refine raises_of_error (exec_emit_of_df hv) ?_
      rw [State.needFrame_of_valid (x := .a) ha, State.needFrame_of_invalid (x := .b) hw]
      rfl

end

end Sys2Proof.Machine

open Sys2Proof Sys2Proof.Machine Sys2Proof.Statements

/-- Settles O45, by the first check that fails. -/
theorem fieldCommandFaults : Obligations.FieldCommandFaults := by
  intro s arg t2
  refine ⟨fun hv => ⟨?_, ?_, ?_⟩, fun hv => ⟨?_, ?_, ?_⟩, fun hw => ⟨?_, fun hv => ?_, fun hv => ?_⟩, fun hv hw => ?_⟩
  · exact enumSetter_setmode_sf.faults hv arg
  · exact enumSetter_setfpwr.faults hv arg
  · exact enumSetter_setfang.faults hv arg
  · exact enumSetter_setmode_df.faults hv arg
  · exact enumSetter_setfan.faults hv arg
  · exact enumSetter_setswing.faults hv arg
  · simp only [List.forall_mem_cons]
    exact ⟨raises_uninit (x := .b) hw rfl, answer_raises_uninit (x := .b) hw rfl, answer_raises_uninit (x := .b) hw rfl,
      raises_uninit (x := .b) hw rfl, answer_raises_uninit (x := .b) hw rfl, answer_raises_uninit (x := .b) hw rfl,
      emit_raises_uninit_of_b hw, nofun⟩
  · simp only [List.forall_mem_cons]
    exact ⟨enumGetter_getfpwr.raises_uninit hv hw, enumGetter_getfang.raises_uninit hv hw,
      chklead_raises_uninit (leadMatches_of_sf_invalid hv hw), nofun⟩
  · simp only [List.forall_mem_cons]
    exact ⟨enumGetter_getfan.raises_uninit hv hw, enumGetter_getswing.raises_uninit hv hw, nofun⟩
  · simp only [List.forall_mem_cons]
    exact ⟨chklead_raises_uninit (leadMatches_of_df_invalid hv hw), emit_raises_uninit_of_a hv hw, nofun⟩
end

section
/-! SUPPORT. The checksum unit: the model's sum and results as the statements say them, the three commands in each
variant, and the sum under a change of one covered byte (44_checksum.md). -/

namespace Sys2Proof.Machine

open Sys2Proof.Statements

/-! ### The sum and the results (44_checksum.md R230, R231, R234) -/

/-- A byte above another, as one number. -/
theorem byte_above_byte (hi lo : BitVec 8) :
    (hi.setWidth 32 <<< 8) ||| lo.setWidth 32 = BitVec.ofNat 32 (256 * hi.toNat + lo.toNat) := by
  have hfields : (hi.setWidth 32 <<< 8) ||| lo.setWidth 32 = fieldAt 0 lo.toNat ||| fieldAt 8 hi.toNat := by
    rw [BitVec.or_comm, fieldAt, fieldAt, BitVec.shiftLeft_zero, BitVec.ofNat_toNat, BitVec.ofNat_toNat]
  have hsum := (assembles_fieldAt (lo := 0) lo.isLt (by decide)).field (lo := 8) hi.isLt (by decide) (by decide)
  rw [hfields, hsum.eq_ofNat]
  congr 1
  omega

theorem byteSum_lt (s : State) : byteSum s < 256 := Nat.mod_lt _ (by decide)

/-- A byte is the sum as a byte exactly where it is the sum as a number. -/
theorem dfByte_eq_byteSum_iff (s : State) (k : Nat) :
    dfByte s k = BitVec.ofNat 8 (byteSum s) ↔ (dfByte s k).toNat = byteSum s := by
  rw [← BitVec.toNat_inj, BitVec.toNat_ofNat, Nat.mod_eq_of_lt (byteSum_lt s)]

theorem checksumResult_byteSum (s : State) :
    checksumResult (BitVec.ofNat 8 (byteSum s)) = BitVec.ofNat 32 (256 + byteSum s) := by
  have hnum : (BitVec.ofNat 8 (byteSum s)).toNat = byteSum s := Nat.mod_eq_of_lt (byteSum_lt s)
  have hbytes := byte_above_byte 1#8 (BitVec.ofNat 8 (byteSum s))
  rwa [hnum] at hbytes

section
variable {s : State}

theorem State.byteB_eq_dfByte (hv : s.cfg.variant = .df) (k : Nat) : s.byteB k = dfByte s k := by
  rw [State.byteB, hv]
  rfl

theorem State.checksum_eq_byteSum (hv : s.cfg.variant = .df) : s.checksum = BitVec.ofNat 8 (byteSum s) := by
  have hbytes : (List.range' 1 18).map (fun k => (s.byteB k).toNat) =
      (List.range 18).map fun j => (dfByte s (j + 1)).toNat := by
    simp only [State.byteB_eq_dfByte hv]
    rfl
  rw [State.checksum, hbytes, byteSum]
  exact BitVec.eq_of_toNat_eq (Nat.mod_mod _ _).symm

/-! ### CKGEN, CKCHK and GETCK on a valid frame (44_checksum.md R231 to R234) -/

theorem exec_ckgen_of_sf (hv : s.cfg.variant = .sf) (hw : s.wvB = true) :
    exec .ckgen s = .next { s with res := 0 } := by
  show execCkgen s = _
  rw [execCkgen, State.needFrame_of_valid (x := .b) hw, hv]
  rfl

/-- In the dual-frame variant the byte at bit 144, byte 19, is written. -/
theorem exec_ckgen_of_df (hv : s.cfg.variant = .df) (hw : s.wvB = true) : exec .ckgen s = .next { s with
    wB := withSlice s.wB 144 (BitVec.ofNat 8 (byteSum s)), res := BitVec.ofNat 32 (256 + byteSum s) } := by
  show execCkgen s = _
  rw [execCkgen, State.needFrame_of_valid (x := .b) hw, State.checksum_eq_byteSum hv, checksumResult_byteSum,
    State.setByteB_eq, hv]
  rfl

theorem exec_ckchk_of_sf (hv : s.cfg.variant = .sf) (hw : s.wvB = true) :
    exec .ckchk s = .next { s with res := 0 } := by
  show execCkchk s = _
  rw [execCkchk, State.needFrame_of_valid (x := .b) hw, hv]
  rfl

theorem exec_ckchk_of_df (hv : s.cfg.variant = .df) (hw : s.wvB = true) : exec .ckchk s =
    s.answer (check (dfByte s 19 == BitVec.ofNat 8 (byteSum s)) .checksumMismatch >>= fun _ =>
      pure (BitVec.ofNat 32 (256 + byteSum s))) := by
  show execCkchk s = _
  rw [execCkchk, State.needFrame_of_valid (x := .b) hw, State.checksum_eq_byteSum hv, checksumResult_byteSum,
    State.byteB_eq_dfByte hv, hv]
  rfl

theorem exec_getck_of_sf (hv : s.cfg.variant = .sf) (hw : s.wvB = true) : exec .getck s = .next { s with
    res := BitVec.ofNat 32 (256 * (s.wB.extractLsb' (8 * s.cfg.sf.ckByte1) 8).toNat +
      (s.wB.extractLsb' (8 * s.cfg.sf.ckByte0) 8).toNat) } := by
  show execGetck s = _
  rw [execGetck, State.needFrame_of_valid (x := .b) hw, hv, byte_above_byte, State.byteB, State.byteB, hv]
  rfl

theorem exec_getck_of_df (hv : s.cfg.variant = .df) (hw : s.wvB = true) :
    exec .getck s = .next { s with res := BitVec.ofNat 32 (dfByte s 19).toNat } := by
  show execGetck s = _
  rw [execGetck, State.needFrame_of_valid (x := .b) hw, State.byteB_eq_dfByte hv ckByte, hv, BitVec.ofNat_toNat]
  rfl

end

/-! ### The sum under a change of one covered byte (44_checksum.md R235) -/

/-- In the valid dual-frame state `t` the data frame is that of `s` but for byte `k`, which is `b`. -/
structure ByteChanged (s : State) (k : Nat) (b : BitVec 8) (t : State) : Prop where
  variant : t.cfg.variant = .df
  valid : t.wvB = true
  changed : dfByte t k = b
  kept : ∀ m, 1 ≤ m → m ≠ k → dfByte t m = dfByte s m

theorem dfByte_withSlice (s : State) {k : Nat} (h1 : 1 ≤ k) (h19 : k ≤ 19) (b : BitVec 8) (r : Word) :
    dfByte { s with wB := withSlice s.wB (8 * (k - 1)) b, res := r } k = b :=
  sliceOf_withSlice s.wB _ b (by omega)

theorem dfByte_withSlice_of_ne (s : State) {k m : Nat} (hk : 1 ≤ k) (hm : 1 ≤ m) (hne : m ≠ k) (b : BitVec 8)
    (r : Word) : dfByte { s with wB := withSlice s.wB (8 * (k - 1)) b, res := r } m = dfByte s m :=
  sliceOf_withSlice_of_disjoint s.wB _ _ b (by omega)

section
variable {s t : State} {k : Nat} {b : BitVec 8}

theorem exec_setb_changes_byte (hv : s.cfg.variant = .df) (hw : s.wvB = true) (h1 : 1 ≤ k) (h19 : k ≤ 19)
    (b : BitVec 8) : ∃ t, exec (.setb 2 k b) s = .next t ∧ ByteChanged s k b t := by
  have hbyte : ByteAt s.cfg.variant .b k (8 * (k - 1)) := .inr (.inr ⟨hv, rfl, h1, h19, rfl⟩)
  obtain ⟨hok, hp⟩ := State.byteSlot_of_byte (f := 2) (.inr (.inr ⟨hv, rfl, rfl⟩)) (.inr ⟨rfl, hw⟩) hbyte
  refine ⟨_, exec_setb_of_ok hok b, ?_⟩
  rw [← hp]
  exact ⟨hv, hw, dfByte_withSlice s h1 h19 b 0, fun m hm hne => dfByte_withSlice_of_ne s h1 hm hne b 0⟩

/-- The sum as a byte is the sum of the covered bytes in the arithmetic mod 256. -/
theorem ofNat_byteSum (s : State) : BitVec.ofNat 8 (byteSum s) = ∑ j ∈ Finset.range 18, dfByte s (j + 1) := by
  have hcast (x : BitVec 8) : ((x.toNat : Nat) : BitVec 8) = x := BitVec.ofNat_toNat 8 x
  calc BitVec.ofNat 8 (byteSum s) = ((∑ j ∈ Finset.range 18, (dfByte s (j + 1)).toNat : Nat) : BitVec 8) :=
        BitVec.eq_of_toNat_eq (Nat.mod_mod _ _)
    _ = ∑ j ∈ Finset.range 18, dfByte s (j + 1) := by simp only [Nat.cast_sum, hcast]

/-- The sum follows a covered byte: of the differences byte by byte only the changed one is not 0. -/
theorem ByteChanged.byteSum_eq (h : ByteChanged s k b t) (h1 : 1 ≤ k) (h18 : k ≤ 18) :
    BitVec.ofNat 8 (byteSum t) = BitVec.ofNat 8 (byteSum s) + (b - dfByte s k) := by
  have hk : k - 1 + 1 = k := Nat.sub_add_cancel h1
  have hdiff : ∑ j ∈ Finset.range 18, (dfByte t (j + 1) - dfByte s (j + 1)) =
      dfByte t (k - 1 + 1) - dfByte s (k - 1 + 1) := by
    refine Finset.sum_eq_single_of_mem (k - 1) (Finset.mem_range.mpr (by omega)) fun j _ hj => ?_
    rw [h.kept (j + 1) (by omega) (by omega), sub_self]
  rw [Finset.sum_sub_distrib, hk, h.changed, ← ofNat_byteSum, ← ofNat_byteSum] at hdiff
  rw [← hdiff, add_sub_cancel]

/-- CKGEN puts the sum into byte 19. -/
theorem exec_ckgen_generates (hv : s.cfg.variant = .df) (hw : s.wvB = true) :
    ∃ u, exec .ckgen s = .next u ∧ dfByte u 19 = BitVec.ofNat 8 (byteSum s) :=
  ⟨_, exec_ckgen_of_df hv hw, dfByte_withSlice s (k := 19) (by decide) (by decide) _ _⟩

end

end Sys2Proof.Machine

open Sys2Proof Sys2Proof.Machine Sys2Proof.Statements

/-- Settles O46. -/
theorem ckgenWritesByteSum : Obligations.CkgenWritesByteSum := by
  intro s hw
  refine ⟨fun hv => ⟨_, exec_ckgen_of_df hv hw, rfl, ?_, fun j hj => ?_⟩, fun hv => exec_ckgen_of_sf hv hw⟩
  · exact dfByte_withSlice s (k := 19) (by decide) (by decide) _ _
  · exact (withSlice_getLsbD s.wB 144 _ j).trans (if_neg fun hc => hj.not_ge hc.2.1)

/-- Settles O47. -/
theorem ckchkValidatesByteSum : Obligations.CkchkValidatesByteSum := by
  intro s hw
  refine ⟨fun hv hsum => ?_, fun hv hsum => ?_, fun hv => exec_ckchk_of_sf hv hw⟩
  · rw [exec_ckchk_of_df hv hw, beq_iff_eq.mpr ((dfByte_eq_byteSum_iff s 19).mpr hsum)]
    rfl
  · rw [Raises, exec_ckchk_of_df hv hw, beq_eq_false_iff_ne.mpr (mt (dfByte_eq_byteSum_iff s 19).mp hsum)]
    rfl

/-- Settles O48. -/
theorem getckReadsChecksumField : Obligations.GetckReadsChecksumField :=
  fun _ hw => ⟨fun hv => exec_getck_of_df hv hw, fun hv => exec_getck_of_sf hv hw⟩

/-- Settles O49: the sum follows each changed byte in the arithmetic mod 256. -/
theorem checksumFollowsCoveredBytes : Obligations.ChecksumFollowsCoveredBytes := by
  intro s k b hv hw h1 h18
  obtain ⟨t, ht, hst⟩ := exec_setb_changes_byte hv hw h1 (by omega) b
  obtain ⟨u, hu, hsum⟩ := exec_ckgen_generates hv hw
  obtain ⟨v, hgen, hsum'⟩ := exec_ckgen_generates hst.variant hst.valid
  have hfollows : dfByte v 19 = dfByte u 19 + (b - dfByte s k) := by rw [hsum', hsum, hst.byteSum_eq h1 h18]
  refine ⟨t, u, v, ht, hu, hgen, hfollows, ?_, fun m c hm1 hm18 hne hzero => ?_⟩
  · rw [hfollows, add_eq_left, sub_eq_zero]
  · obtain ⟨t', ht', htt'⟩ := exec_setb_changes_byte hst.variant hst.valid hm1 (by omega) c
    obtain ⟨v', hgen', hsum''⟩ := exec_ckgen_generates htt'.variant htt'.valid
    refine ⟨t', v', ht', hgen', ?_⟩
    calc dfByte v' 19 = BitVec.ofNat 8 (byteSum t) + (c - dfByte t m) := by rw [hsum'', htt'.byteSum_eq hm1 hm18]
      _ = dfByte u 19 + ((b - dfByte s k) + (c - dfByte s m)) := by
        rw [hst.byteSum_eq h1 h18, hst.kept m hm1 hne, ← hsum, add_assoc]
      _ = dfByte u 19 := by rw [hzero, add_zero]
end

section
/-! SUPPORT. The single-frame checksum bytes: no field of the layout meets them, so a command that writes W_B in part
keeps them (44_checksum.md R233). -/

namespace Sys2Proof.Machine

open Sys2Proof.Statements

/-- The command does not change byte `k` of the single-frame W_B (20_memory.md R73). -/
def KeepsByte (i : Instr) (s : State) (k : Nat) : Prop :=
  ∀ t, exec i s = .next t → t.wB.extractLsb' (8 * k) 8 = s.wB.extractLsb' (8 * k) 8

section
variable {i : Instr} {s t : State} {k : Nat}

theorem keepsByte_of_exec (he : exec i s = .next t)
    (h : t.wB.extractLsb' (8 * k) 8 = s.wB.extractLsb' (8 * k) 8) : KeepsByte i s k := by
  intro u hu
  cases he.symm.trans hu
  exact h

theorem keepsByte_of_frames (h : writesFrames i = false) : KeepsByte i s k := by
  obtain ⟨t, he, kept⟩ := exec_unitsKept i s
  obtain ⟨hw, hn, hp⟩ := effectKind_of_keeps_frames h
  exact keepsByte_of_exec he (by rw [(kept.frames hw hn hp).2])

/-- A fault writes no frame (60_exceptions.md R262). -/
theorem keepsByte_of_raises {c : FaultCode} (h : Raises i s c) : KeepsByte i s k :=
  keepsByte_of_exec h (congrArg (BitVec.extractLsb' (8 * k) 8) (s.raise_wB c false))

theorem raises_of_other_variant {n : Nat} {v : Variant} (hv : s.cfg.variant ≠ v) (arg : EnumArg)
    (pat : Vector (BitVec 4) n) (m j : Nat) (he : exec i s = s.complete (s.putNibble v arg pat m j)) :
    Raises i s .wrongVariant :=
  raises_of_error he (by rw [State.putNibble, State.needVariant, decide_eq_false hv]; rfl)

theorem EnumSetter.keepsByte {w n : Nat} {put : EnumArg → Instr} {v : Variant} {pat : Config → Vector (BitVec w) n}
    {p : Config → Nat} (h : EnumSetter put v pat (writeAt p)) (hv : s.cfg.variant = v)
    (hapart : 8 * k + 8 ≤ p s.cfg ∨ p s.cfg + w ≤ 8 * k) (arg : EnumArg) : KeepsByte (put arg) s k := by
  obtain ⟨t, ht, -, -, -, hwB⟩ := h.exec_cases (arg := arg) hv
  refine keepsByte_of_exec ht ?_
  rcases hwB with hwB | ⟨x, hwB⟩ <;> rw [hwB]
  exact sliceOf_withSlice_of_disjoint s.wB (p s.cfg) _ x hapart

theorem settemp_keepsByte (hv : s.cfg.variant = .sf) (htemp : k ≠ s.cfg.sf.tempByte) (htmod : k ≠ s.cfg.sf.tmodByte)
    (t2 : Nat) : KeepsByte (.settemp t2) s k := by
  cases hw : s.wvB with
  | false => exact keepsByte_of_raises (raises_uninit (x := .b) hw rfl)
  | true =>
    refine keepsByte_of_exec (exec_settemp_of_valid hw t2) ?_
    have hat : tempAt s.cfg = 8 * s.cfg.sf.tempByte ∧ halfAt s.cfg = 8 * s.cfg.sf.tmodByte + s.cfg.sf.halfBit.val ∧
        limitAt s.cfg = 8 * s.cfg.sf.tmodByte + s.cfg.sf.limitBit.val := by
      simp only [tempAt, halfAt, limitAt, byteAt, tempFields, hv, and_self]
    obtain ⟨htempAt, hhalfAt, hlimitAt⟩ := hat
    show sliceOf (tempWritten s.cfg t2 s.wB) (8 * k) 8 = sliceOf s.wB (8 * k) 8
    rw [tempWritten, sliceOf_withSlice_of_disjoint _ _ _ _ (by omega),
      sliceOf_withSlice_of_disjoint _ _ _ _ (by omega), sliceOf_withSlice_of_disjoint _ _ _ _ (by omega)]

theorem ckgen_keepsByte (hv : s.cfg.variant = .sf) : KeepsByte .ckgen s k := by
  cases hw : s.wvB with
  | false => exact keepsByte_of_raises (raises_uninit (x := .b) hw rfl)
  | true => exact keepsByte_of_exec (exec_ckgen_of_sf hv hw) rfl

/-- A checksum byte is none of the bytes that hold a field (00_scope.md R16). -/
theorem ckByte_ne_fields {c : Config} (h : c.Ok) (hk : k ∈ [c.sf.ckByte0, c.sf.ckByte1]) :
    k ≠ c.sf.modeByte ∧ k ≠ c.sf.tempByte ∧ k ≠ c.sf.tmodByte ∧ k ≠ c.sf.fanByte := by
  obtain ⟨-, -, ⟨hnodup, -⟩, -⟩ := h
  have hapart := List.disjoint_of_nodup_append
    (l₁ := [0, 1, 2, 3, 4, c.sf.modeByte, c.sf.tempByte, c.sf.tmodByte, c.sf.fanByte]) hnodup
  refine ⟨?_, ?_, ?_, ?_⟩ <;> exact fun he => hapart (by simp [he]) hk

/-- The commands that write W_B, case by case; every other one keeps it whole. -/
theorem checksumByte_kept (hok : s.cfg.Ok) (hv : s.cfg.variant = .sf) (hk : k ∈ [s.cfg.sf.ckByte0, s.cfg.sf.ckByte1])
    (hnewf : i ≠ .newf) (hpop : i ≠ .popcmd) (hsetb : ∀ f m v, i ≠ .setb f m v)
    (hsetr : ∀ f start len data, i ≠ .setr f start len data) : KeepsByte i s k := by
  obtain ⟨hmode, htemp, htmod, hfan⟩ := ckByte_ne_fields hok hk
  have hdf : s.cfg.variant ≠ .df := by rw [hv]; decide
  cases i with
  | newf => exact absurd rfl hnewf
  | popcmd => exact absurd rfl hpop
  | setb f m v => exact absurd rfl (hsetb f m v)
  | setr f start len data => exact absurd rfl (hsetr f start len data)
  | settemp t2 => exact settemp_keepsByte hv htemp htmod t2
  | setmode arg => exact enumSetter_setmode_sf.keepsByte hv (by omega) arg
  | setfpwr arg => exact enumSetter_setfpwr.keepsByte hv (by unfold powerAt; omega) arg
  | setfang arg => exact enumSetter_setfang.keepsByte hv (by unfold angleAt; omega) arg
  | setfan arg => exact keepsByte_of_raises (raises_of_other_variant hdf arg _ _ _ rfl)
  | setswing arg => exact keepsByte_of_raises (raises_of_other_variant hdf arg _ _ _ rfl)
  | ckgen => exact ckgen_keepsByte hv
  | _ => exact keepsByte_of_frames rfl

end

end Sys2Proof.Machine

open Sys2Proof Sys2Proof.Machine Sys2Proof.Statements

/-- Settles O50, by the commands that write W_B. -/
theorem singleFrameChecksumPassesThrough : Obligations.SingleFrameChecksumPassesThrough := by
  intro s i hok hv hnewf hpop hsetb hsetr
  obtain ⟨t, ht, -⟩ := exec_unitsKept i s
  exact ⟨t, ht, fun _ hk => checksumByte_kept hok hv hk hnewf hpop hsetb hsetr t ht⟩
end

section
/-! SUPPORT. EMIT on valid frames, and what it appends, pair by pair (45_encoder.md R240 to R242). -/

namespace Sys2Proof.Machine

open Sys2Proof.Statements

/-! ### A list of marks with their spaces, entry by entry -/

/-- Marks, each with its space, in their order. -/
def markSpaces (ps : List (Nat × Nat)) : List TxPair := ps.flatMap fun p => markSpace p.1 p.2

theorem markSpaces_cons (p : Nat × Nat) (ps : List (Nat × Nat)) :
    markSpaces (p :: ps) = ⟨.mark, p.1⟩ :: ⟨.space, p.2⟩ :: markSpaces ps := rfl

theorem length_markSpaces (ps : List (Nat × Nat)) : (markSpaces ps).length = 2 * ps.length := by
  induction ps with
  | nil => rfl
  | cons p ps ih => rw [markSpaces_cons, List.length_cons, List.length_cons, ih, List.length_cons]; omega

/-- The mark and the space of the pair at place `k`. -/
theorem markSpaces_getElem? {ps : List (Nat × Nat)} {k : Nat} {p : Nat × Nat} (h : ps[k]? = some p) :
    (markSpaces ps)[2 * k]? = some ⟨.mark, p.1⟩ ∧ (markSpaces ps)[2 * k + 1]? = some ⟨.space, p.2⟩ := by
  induction ps generalizing k with
  | nil => simp at h
  | cons q ps ih =>
    rw [markSpaces_cons]
    cases k with
    | zero =>
      obtain rfl : q = p := by simpa using h
      exact ⟨rfl, rfl⟩
    | succ k => exact ih h

/-! ### `EmitFrame` (45_encoder.md R241) -/

/-- The bits of a frame, in the order of their transmission (00_scope.md R22). -/
def frameBits {l : Nat} (w : BitVec l) : List Bool := (List.range l).map w.getLsbD

@[simp] theorem length_frameBits {l : Nat} (w : BitVec l) : (frameBits w).length = l := by simp [frameBits]

theorem frameBits_getElem? {l : Nat} (w : BitVec l) {j : Nat} (h : j < l) : (frameBits w)[j]? = some (w.getLsbD j) := by
  simp [frameBits, h]

/-- The mark and the space of a data bit. -/
def bitDurations (c : Config) (bit : Bool) : Nat × Nat := (c.refMark, if bit then c.refLong else c.refShort)

/-- The marks of a frame with their spaces: the header, the bits, the terminal mark with the end-of-frame space. -/
def frameDurations {l : Nat} (c : Config) (w : BitVec l) : List (Nat × Nat) :=
  (c.refHdrMark, c.refHdrSpace) :: ((frameBits w).map (bitDurations c) ++ [(c.refMark, c.refSep)])

theorem length_frameDurations {l : Nat} (c : Config) (w : BitVec l) : (frameDurations c w).length = l + 2 := by
  simp [frameDurations]

theorem emitFrame_eq {l : Nat} (c : Config) (w : BitVec l) : emitFrame c w =
    markSpace c.refHdrMark c.refHdrSpace ++ (frameBits w).flatMap (bitPairs c) ++ markSpace c.refMark c.refSep := by
  rw [emitFrame, frameBits, List.flatMap_map]

theorem emitFrame_eq_markSpaces {l : Nat} (c : Config) (w : BitVec l) :
    emitFrame c w = markSpaces (frameDurations c w) := by
  have hbits : markSpaces ((frameBits w).map (bitDurations c)) = (frameBits w).flatMap (bitPairs c) :=
    List.flatMap_map ..
  rw [emitFrame_eq, ← hbits]
  simp only [markSpaces, frameDurations, List.flatMap_cons, List.flatMap_append, List.flatMap_nil, List.append_nil,
    List.append_assoc]

theorem isEmission_emitFrame {l : Nat} (c : Config) (w : BitVec l) :
    IsEmission c l w.getLsbD (emitFrame c w) := by
  have hheader : (frameDurations c w)[0]? = some (c.refHdrMark, c.refHdrSpace) := rfl
  have hbit : ∀ j < l, (frameDurations c w)[j + 1]? = some (bitDurations c (w.getLsbD j)) := fun j hj => by
    rw [frameDurations, List.getElem?_cons_succ, List.getElem?_append_left (by simpa using hj), List.getElem?_map,
      frameBits_getElem? w hj]
    rfl
  have hend : (frameDurations c w)[l + 1]? = some (c.refMark, c.refSep) := by
    simp [frameDurations]
  rw [emitFrame_eq_markSpaces]
  obtain ⟨hmark, hspace⟩ := markSpaces_getElem? hheader
  obtain ⟨hterminal, hsep⟩ := markSpaces_getElem? hend
  refine ⟨?_, hmark, hspace, fun j hj => ?_, hterminal, hsep⟩
  · rw [length_markSpaces, length_frameDurations]; rfl
  · obtain ⟨hm, hs⟩ := markSpaces_getElem? (hbit j hj)
    rw [show 2 + 2 * j = 2 * (j + 1) by omega, show 3 + 2 * j = 2 * (j + 1) + 1 by omega]
    exact ⟨hm, hs⟩

/-! ### EMIT with the frames it needs (45_encoder.md R240, R242) -/

section
variable {s : State}

theorem exec_emit_of_valid_sf (hv : s.cfg.variant = .sf) (hB : s.wvB = true) :
    exec .emit s = .next ((s.emitPairs (emitFrame s.cfg s.wB)).setRes 308) := by
  rw [exec_emit_of_sf hv, State.needFrame_of_valid (x := .b) hB]
  rfl

theorem exec_emit_of_valid_df (hv : s.cfg.variant = .df) (hA : s.wvA = true) (hB : s.wvB = true) :
    exec .emit s = .next ((s.emitPairs (emitFrame s.cfg s.wA ++ emitFrame s.cfg s.wB)).setRes 440) := by
  rw [exec_emit_of_df hv, State.needFrame_of_valid (x := .a) hA, State.needFrame_of_valid (x := .b) hB]
  rfl

end

end Sys2Proof.Machine

open Sys2Proof Sys2Proof.Machine Sys2Proof.Statements

/-- Settles O51, by the variant. -/
theorem emitAppendsFrames : Obligations.EmitAppendsFrames := by
  intro s
  refine ⟨fun hv hB => ?_, fun hv hA hB => ?_⟩
  · exact ⟨_, isEmission_emitFrame s.cfg s.wB, exec_emit_of_valid_sf hv hB⟩
  · refine ⟨_, _, isEmission_emitFrame s.cfg s.wA, isEmission_emitFrame s.cfg s.wB, ?_⟩
    rw [exec_emit_of_valid_df hv hA hB, List.append_assoc]
    rfl
end

section
/-! SUPPORT. An emission played back as a capture: each mark with its space has the effect of its symbol, so a frame is
collected bit by bit and closed by its separator (45_encoder.md R244). -/

namespace Sys2Proof.Machine

open Sys2Proof.Statements

/-! ### Bits appended one after another (41_synchronizer.md R138) -/

/-- The frame with bits written one after another from bit `p` on. -/
def putBits {l : Nat} (w : BitVec l) (p : Nat) : List Bool → BitVec l
  | [] => w
  | bit :: bits => putBits (withSlice w p (BitVec.ofBool bit)) (p + 1) bits

theorem putBits_getLsbD {l : Nat} (w : BitVec l) (p : Nat) (bits : List Bool) {j : Nat} (hj : j < l) :
    (putBits w p bits).getLsbD j = if p ≤ j then bits[j - p]?.getD (w.getLsbD j) else w.getLsbD j := by
  induction bits generalizing w p with
  | nil => simp [putBits]
  | cons bit bits ih =>
    rw [putBits, ih, withSlice_ofBool_getLsbD _ _ _ hj]
    rcases Nat.lt_trichotomy j p with hlt | rfl | hgt
    · rw [if_neg (by omega), if_neg hlt.ne, if_neg (by omega)]
    · simp
    · obtain ⟨k, rfl⟩ := Nat.exists_eq_add_of_lt hgt
      rw [if_pos (by omega), if_neg (by omega), if_pos (by omega), show p + k + 1 - (p + 1) = k by omega,
        show p + k + 1 - p = k + 1 by omega, List.getElem?_cons_succ]

/-- The bits of a whole frame replace whatever the buffer held. -/
theorem putBits_frameBits {l : Nat} (x w : BitVec l) : putBits x 0 (frameBits w) = w :=
  BitVec.eq_of_getLsbD_eq fun j hj => by
    rw [putBits_getLsbD x 0 _ hj, if_pos (Nat.zero_le j), Nat.sub_zero, frameBits_getElem? w hj, Option.getD_some]

/-- Bits appended to the active buffer, in their order. -/
def State.appendBits (s : State) (bits : List Bool) : State :=
  match s.act with
  | .a => { s with abufA := putBits s.abufA s.cntA bits, cntA := s.cntA + bits.length }
  | .b => { s with abufB := putBits s.abufB s.cntB bits, cntB := s.cntB + bits.length }

section
variable {s : State}

theorem State.appendBits_nil (s : State) : s.appendBits [] = s := by
  unfold State.appendBits
  split <;> rfl

theorem State.appendBits_cons (s : State) (bit : Bool) (bits : List Bool) :
    s.appendBits (bit :: bits) = (s.appendBit bit).appendBits bits := by
  cases ha : s.act <;>
    simp only [State.appendBits, State.appendBit, ha, putBits, List.length_cons, Nat.add_assoc, Nat.add_comm 1]

@[simp] theorem State.appendBits_cfg (s : State) (bits : List Bool) : (s.appendBits bits).cfg = s.cfg := by
  unfold State.appendBits
  split <;> rfl

@[simp] theorem State.appendBits_fcode (s : State) (bits : List Bool) : (s.appendBits bits).fcode = s.fcode := by
  unfold State.appendBits
  split <;> rfl

theorem State.activeCount_appendBit (s : State) (bit : Bool) :
    (s.appendBit bit).activeCount = s.activeCount + 1 := by
  cases ha : s.act <;> simp only [State.activeCount, State.appendBit, ha]

/-- A whole frame 1, collected in an empty buffer. -/
theorem State.appendBits_frame_a (ha : s.act = .a) (h0 : s.cntA = 0) (w : FrameA) :
    s.appendBits (frameBits w) = { s with abufA := w, cntA := 64 } := by
  simp only [State.appendBits, ha, h0, putBits_frameBits, length_frameBits, Nat.zero_add]

/-- A whole 152-bit frame, collected in an empty buffer. -/
theorem State.appendBits_frame_b (hb : s.act = .b) (h0 : s.cntB = 0) (w : FrameB) :
    s.appendBits (frameBits w) = { s with abufB := w, cntB := 152 } := by
  simp only [State.appendBits, hb, h0, putBits_frameBits, length_frameBits, Nat.zero_add]

end

/-! ### Commands in a row -/

section
variable {s t : State}

theorem execAll_cons_of_next {i : Instr} (h : exec i s = .next t) (is : List Instr) :
    execAll (i :: is) s = execAll is t := by
  rw [execAll, h]

theorem execAll_append_of_next {is : List Instr} (h : execAll is s = .next t) (js : List Instr) :
    execAll (is ++ js) s = execAll js t := by
  induction is generalizing s with
  | nil =>
    cases h
    rfl
  | cons i is ih =>
    obtain ⟨u, hu, -⟩ := exec_cases i s
    rw [execAll_cons_of_next hu] at h
    rw [List.cons_append, execAll_cons_of_next hu, ih h]

end

/-! ### Pairs played back

What an event notes beside the effect of its symbol (EVCNT, the pending pulse, RES) steers nothing between two pairs,
so a play-back is followed up to it. -/

/-- The state with EVCNT, the pending pulse and RES as an event notes them. -/
def State.noted (s : State) (n : Word) (pending : Bool) (m : MarkClass) (v : Word) : State :=
  { s with evcnt := n, pend := pending, pmark := m, res := v }

/-- `t` is `s` with no pulse pending, but for EVCNT, the stale mark class and RES. -/
def State.BetweenPairs (s t : State) : Prop := ∃ n m v, t = s.noted n false m v

/-- Playing the pairs back takes a capture from `s` to `t`, between two pairs each time. -/
def Plays (pairs : List TxPair) (s t : State) : Prop :=
  ∀ s', s.BetweenPairs s' → ∃ t', execAll (pairs.map TxPair.playback) s' = .next t' ∧ t.BetweenPairs t'

theorem Plays.nil (s : State) : Plays [] s s := fun s' h => ⟨s', rfl, h⟩

theorem Plays.append {ps qs : List TxPair} {s t u : State} (hps : Plays ps s t) (hqs : Plays qs t u) :
    Plays (ps ++ qs) s u := by
  intro s' hs
  obtain ⟨t', hst, ht⟩ := hps s' hs
  obtain ⟨u', htu, hu⟩ := hqs t' ht
  exact ⟨u', by rw [List.map_append, execAll_append_of_next hst, htu], hu⟩

section
variable {s t : State}

/-- A mark and a space at their references have the effect of their symbol (40_classifier.md R115;
41_synchronizer.md R133, R134). -/
theorem plays_of_symbol {mc : MarkClass} {sc : SpaceClass} {mark space : Nat} {sym : PairSymbol}
    (hrefs : s.cfg.RefsOk) (hf : s.fcode = .noFault) (hmark : (mc, mark) ∈ markTable s.cfg)
    (hspace : (sc, space) ∈ spaceTable s.cfg) (hsym : pairSymbol mc sc = some sym)
    (heff : ∀ n v, symbolEffect sym (s.noted n true mc v) = .ok (t.noted n true mc v)) :
    Plays (markSpace mark space) s t := by
  rintro _ ⟨n, old, v, rfl⟩
  have hpulse : exec (.pulse mark) (s.noted n false old v) =
      .next (s.noted (n + 1) true mc (if mc = .headerMark then 1 else 0)) :=
    pulseIsHeldPending _ mark mc hf rfl (classMark_of_mem hrefs hmark)
  have hready : SpaceReady (s.noted (n + 1) true mc (if mc = .headerMark then 1 else 0)) space mc sc :=
    ⟨hf, rfl, rfl, classSpace_of_mem hrefs hspace⟩
  have hsp := exec_space_of_symbol hready hsym (heff (n + 1 + 1) _)
  exact ⟨_, (execAll_cons_of_next hpulse _).trans (execAll_cons_of_next hsp []), n + 1 + 1, mc, _, rfl⟩

/-- The header opens a frame (41_synchronizer.md R137). -/
theorem plays_header (hrefs : s.cfg.RefsOk) (hf : s.fcode = .noFault) :
    Plays (markSpace s.cfg.refHdrMark s.cfg.refHdrSpace) s { s with sync := .inFrame } := by
  have hmark : (.headerMark, s.cfg.refHdrMark) ∈ markTable s.cfg := by simp [markTable]
  have hspace : (.headerSpace, s.cfg.refHdrSpace) ∈ spaceTable s.cfg := by simp [spaceTable, spaceTableRest]
  exact plays_of_symbol hrefs hf hmark hspace rfl fun _ _ => rfl

theorem State.appendBit_noted (s : State) (n : Word) (pending : Bool) (m : MarkClass) (v : Word) (bit : Bool) :
    (s.noted n pending m v).appendBit bit = (s.appendBit bit).noted n pending m v := by
  cases ha : s.act <;> simp only [State.appendBit, State.noted, ha]

/-- A data bit joins the active frame while it has room (41_synchronizer.md R138). -/
theorem plays_bit (hrefs : s.cfg.RefsOk) (hf : s.fcode = .noFault) (hin : s.sync = .inFrame)
    (hroom : s.activeCount ≠ frameLen s.act) (bit : Bool) : Plays (bitPairs s.cfg bit) s (s.appendBit bit) := by
  have hmark : (.mark, s.cfg.refMark) ∈ markTable s.cfg := by simp [markTable]
  have hspace : (if bit then .long else .short, if bit then s.cfg.refLong else s.cfg.refShort) ∈ spaceTable s.cfg := by
    cases bit <;> simp [spaceTable, spaceTableRest]
  refine plays_of_symbol hrefs hf hmark hspace (pairSymbol_dataBit bit) fun n v => ?_
  rw [← State.appendBit_noted]
  exact bitEffect_of_room (s := s.noted n true .mark v) hin hroom bit

/-- The terminal mark and the end-of-frame space are a separator (45_encoder.md R242). -/
theorem plays_separator (hrefs : s.cfg.RefsOk) (hf : s.fcode = .noFault)
    (heff : ∀ n v, symbolEffect .separator (s.noted n true .mark v) = .ok (t.noted n true .mark v)) :
    Plays (markSpace s.cfg.refMark s.cfg.refSep) s t := by
  have hmark : (.mark, s.cfg.refMark) ∈ markTable s.cfg := by simp [markTable]
  have hspace : (.separator, s.cfg.refSep) ∈ spaceTable s.cfg := by simp [spaceTable, spaceTableRest]
  exact plays_of_symbol hrefs hf hmark hspace rfl heff

/-- The data bits of a frame join the active frame one after another. -/
theorem plays_bits (hrefs : s.cfg.RefsOk) (hf : s.fcode = .noFault) (hin : s.sync = .inFrame) (bits : List Bool)
    (hroom : s.activeCount + bits.length ≤ frameLen s.act) :
    Plays (bits.flatMap (bitPairs s.cfg)) s (s.appendBits bits) := by
  induction bits generalizing s with
  | nil =>
    rw [State.appendBits_nil]
    exact .nil s
  | cons bit bits ih =>
    rw [List.length_cons] at hroom
    have hrest := ih (s := s.appendBit bit) (by simpa using hrefs) (by simpa using hf) (by simpa using hin)
      (by rw [State.activeCount_appendBit, State.appendBit_act]; omega)
    rw [State.appendBit_cfg] at hrest
    rw [List.flatMap_cons, State.appendBits_cons]
    exact (plays_bit hrefs hf hin (by omega) bit).append hrest

/-! ### A whole frame and its separator, with room in the queue (41_synchronizer.md R139, R140) -/

theorem separator_queues_sf (hv : s.cfg.variant = .sf) (hb : s.act = .b) (hc : s.cntB = 152)
    (hroom : s.oq.length < s.cfg.oqDepth) : symbolEffect .separator s =
      .ok { s with oq := s.oq ++ [⟨none, some s.abufB⟩], cntB := 0, sync := .awaitNext } := by
  rw [separator_of_full_sf hv hb hc, State.push_of_room hroom]
  rfl

theorem separator_queues_b (hv : s.cfg.variant = .df) (hb : s.act = .b) (hc : s.cntB = 152)
    (hroom : s.oq.length < s.cfg.oqDepth) : symbolEffect .separator s =
      .ok { s with
        oq := s.oq ++ [⟨some s.abufA, some s.abufB⟩], cntA := 0, cntB := 0, doneA := false, act := .a,
        sync := .awaitNext } := by
  rw [separator_of_full_b hv hb hc, State.push_of_room hroom]
  rfl

/-! ### An emitted frame played back -/

/-- The header and the bits of a frame collect it in the empty active buffer; what is left to say is the effect of its
separator. -/
theorem plays_emitFrame {l : Nat} (w : BitVec l) (hrefs : s.cfg.RefsOk) (hf : s.fcode = .noFault)
    (h0 : s.activeCount = 0) (hl : l = frameLen s.act)
    (hsep : ∀ n v,
      symbolEffect .separator (({ s with sync := .inFrame }.appendBits (frameBits w)).noted n true .mark v) =
        .ok (t.noted n true .mark v)) : Plays (emitFrame s.cfg w) s t := by
  have hroom : s.activeCount + (frameBits w).length ≤ frameLen s.act := by rw [h0, length_frameBits, hl, Nat.zero_add]
  have hbits := plays_bits (s := { s with sync := .inFrame }) hrefs hf rfl (frameBits w) hroom
  have hend := plays_separator (by rwa [State.appendBits_cfg]) (by rwa [State.appendBits_fcode]) hsep
  rw [State.appendBits_cfg] at hend
  rw [emitFrame_eq]
  exact ((plays_header hrefs hf).append hbits).append hend

/-- The single frame is queued when its separator comes (41_synchronizer.md R139). -/
theorem plays_emitFrame_sf (hrefs : s.cfg.RefsOk) (hf : s.fcode = .noFault) (hv : s.cfg.variant = .sf)
    (hb : s.act = .b) (h0 : s.cntB = 0) (hroom : s.oq.length < s.cfg.oqDepth) (w : FrameB) :
    Plays (emitFrame s.cfg w) s
      { s with abufB := w, cntB := 0, sync := .awaitNext, oq := s.oq ++ [⟨none, some w⟩] } := by
  refine plays_emitFrame w hrefs hf ((State.activeCount_of_b hb).trans h0) (by rw [hb]; rfl) fun n v => ?_
  rw [State.appendBits_frame_b (s := { s with sync := .inFrame }) hb h0]
  exact separator_queues_sf hv hb rfl hroom

/-- A complete frame 1 waits for its frame 2 (10_state.md R47). -/
def State.withFrame1 (s : State) (w : FrameA) : State :=
  { s with abufA := w, cntA := 64, doneA := true, act := .b, cntB := 0, sync := .awaitNext }

/-- Frame 1 of a pair waits for frame 2 when its separator comes (41_synchronizer.md R140). -/
theorem plays_emitFrame_a (hrefs : s.cfg.RefsOk) (hf : s.fcode = .noFault) (hv : s.cfg.variant = .df)
    (ha : s.act = .a) (h0 : s.cntA = 0) (w : FrameA) : Plays (emitFrame s.cfg w) s (s.withFrame1 w) := by
  refine plays_emitFrame w hrefs hf ((State.activeCount_of_a ha).trans h0) (by rw [ha]; rfl) fun n v => ?_
  rw [State.appendBits_frame_a (s := { s with sync := .inFrame }) ha h0]
  exact separator_of_full_a hv ha rfl

/-- Frame 2 is queued with the frame 1 that waits for it (41_synchronizer.md R140). -/
theorem plays_emitFrame_b (hrefs : s.cfg.RefsOk) (hf : s.fcode = .noFault) (hv : s.cfg.variant = .df)
    (hb : s.act = .b) (h0 : s.cntB = 0) (hroom : s.oq.length < s.cfg.oqDepth) (w : FrameB) :
    Plays (emitFrame s.cfg w) s
      { s with
        abufB := w, cntA := 0, cntB := 0, doneA := false, act := .a, sync := .awaitNext,
        oq := s.oq ++ [⟨some s.abufA, some w⟩] } := by
  refine plays_emitFrame w hrefs hf ((State.activeCount_of_b hb).trans h0) (by rw [hb]; rfl) fun n v => ?_
  rw [State.appendBits_frame_b (s := { s with sync := .inFrame }) hb h0]
  exact separator_queues_b hv hb rfl hroom

/-! ### A capture of the emitted frames -/

/-- The state a capture starts in (41_synchronizer.md R132). -/
def State.captureStart (s : State) : State := { s.clearFault.restartSync with evcnt := 0, oq := [], res := 0 }

theorem exec_capstart (s : State) : exec .capstart s = .next s.captureStart := rfl

theorem execAll_captureOf {pairs : List TxPair} (h : Plays pairs s.captureStart t) :
    ∃ u, execAll (captureOf pairs) s = .next u ∧ u.fcode = t.fcode ∧ u.oq = t.oq := by
  obtain ⟨u, hu, n, m, v, rfl⟩ := h _ ⟨_, _, _, rfl⟩
  exact ⟨_, (execAll_cons_of_next (exec_capstart s) _).trans hu, rfl, rfl⟩

/-- A single frame, captured. -/
theorem capture_emitFrame_sf (h : s.cfg.Ok) (hv : s.cfg.variant = .sf) (w : FrameB) :
    ∃ u, execAll (captureOf (emitFrame s.cfg w)) s = .next u ∧ u.fcode = .noFault ∧ u.oq = [⟨none, some w⟩] := by
  obtain ⟨hrefs, ⟨hdepth, -⟩, -⟩ := h
  have hact : s.captureStart.act = .b := congrArg firstSlot hv
  exact execAll_captureOf (plays_emitFrame_sf (s := s.captureStart) hrefs rfl hv hact rfl hdepth w)

/-- A pair of frames, captured. -/
theorem capture_emitFrame_df (h : s.cfg.Ok) (hv : s.cfg.variant = .df) (wA : FrameA) (wB : FrameB) :
    ∃ u, execAll (captureOf (emitFrame s.cfg wA ++ emitFrame s.cfg wB)) s = .next u ∧ u.fcode = .noFault ∧
      u.oq = [⟨some wA, some wB⟩] := by
  obtain ⟨hrefs, ⟨hdepth, -⟩, -⟩ := h
  have hact : s.captureStart.act = .a := congrArg firstSlot hv
  have hA := plays_emitFrame_a (s := s.captureStart) hrefs rfl hv hact rfl wA
  have hB := plays_emitFrame_b (s := s.captureStart.withFrame1 wA) hrefs rfl hv rfl rfl hdepth wB
  exact execAll_captureOf (hA.append hB)

end

end Sys2Proof.Machine

open Sys2Proof Sys2Proof.Machine Sys2Proof.Statements

/-- Settles O52, by the variant: each emitted frame is collected bit by bit and closed by its separator. -/
theorem captureOfEmissionGivesFramesBack : Obligations.CaptureOfEmissionGivesFramesBack := by
  intro s hok hB hA
  cases hv : s.cfg.variant with
  | sf =>
    have hentry : s.workEntry = ⟨none, some s.wB⟩ := by rw [State.workEntry, hv]
    obtain ⟨u, hu, hf, ho⟩ :=
      capture_emitFrame_sf (s := (s.emitPairs (emitFrame s.cfg s.wB)).setRes 308) hok hv s.wB
    exact ⟨_, _, u, exec_emit_of_valid_sf hv hB, rfl, hu, hf, hentry ▸ ho⟩
  | df =>
    have hentry : s.workEntry = ⟨some s.wA, some s.wB⟩ := by rw [State.workEntry, hv]
    obtain ⟨u, hu, hf, ho⟩ := capture_emitFrame_df
      (s := (s.emitPairs (emitFrame s.cfg s.wA ++ emitFrame s.cfg s.wB)).setRes 440) hok hv s.wA s.wB
    exact ⟨_, _, u, exec_emit_of_valid_df hv (hA hv) hB, rfl, hu, hf, hentry ▸ ho⟩
end

section
/-! SUPPORT. The fault record: which commands can change it, and the checks of the variant (60_exceptions.md R252, R263,
R264). -/

namespace Sys2Proof.Machine

open Sys2Proof.Statements

section
variable {i : Instr} {s t : State}

/-! ### The record under a command's effect -/

/-- An effect that starts no capture keeps the fault record. -/
theorem fault_kept_of_leaves {k : EffectKind} (h : k.Leaves s t) (hk : k ≠ .captureStart) :
    t.fcode = s.fcode ∧ t.fpos = s.fpos := by
  cases k with
  | event => exact h.elim
  | answer => obtain ⟨v, rfl⟩ := h; exact ⟨rfl, rfl⟩
  | frameWrite => obtain ⟨wA, wB, v, rfl⟩ := h; exact ⟨rfl, rfl⟩
  | newFrames => cases h; simp
  | popEntry =>
    cases h
    unfold popEffect
    split <;> simp
  | captureStart => exact absurd rfl hk
  | emission => obtain ⟨pairs, v, rfl⟩ := h; exact ⟨rfl, rfl⟩

/-- A command that completes records no fault of its own. -/
theorem noFault_of_leaves {k : EffectKind} (h : k.Leaves s t) (hf : s.fcode = .noFault) : t.fcode = .noFault := by
  by_cases hk : k = .captureStart
  · subst hk
    cases h
    rfl
  · rw [(fault_kept_of_leaves h hk).1, hf]

/-- An event that takes effect records no fault. -/
theorem noFault_of_keepsOutside (h : KeepsOutside s.countEvent t) (hf : s.fcode = .noFault) : t.fcode = .noFault := by
  unfold KeepsOutside at h
  rw [h]
  exact hf

/-- While a fault is recorded, CAPSTART is the only command that changes the record (60_exceptions.md R262, R264). -/
theorem exec_keeps_fault (hf : s.fcode ≠ .noFault) (hi : i ≠ .capstart) :
    ∃ t, exec i s = .next t ∧ t.fcode = s.fcode ∧ t.fpos = s.fpos := by
  obtain ⟨t, he, rfl | hl | ⟨c, -, rfl⟩ | ⟨-, hn, -⟩⟩ := exec_cases i s
  · exact ⟨_, he, rfl, rfl⟩
  · exact ⟨t, he, fault_kept_of_leaves hl (effectKind_of_ne_capstart hi)⟩
  · rw [State.raise_of_fault _ _ _ hf] at he
    exact ⟨s, he, rfl, rfl⟩
  · exact absurd hn hf

/-! ### The variant before the operand and the frame -/

/-- A getter of the other variant; `raises_of_other_variant` is the same for a setter. -/
theorem answer_raises_of_other_variant {n : Nat} {v : Variant} (hv : s.cfg.variant ≠ v) (pat : Vector (BitVec 4) n)
    (m j : Nat) (he : exec i s = s.answer (s.getNibble v pat m j)) : Raises i s .wrongVariant :=
  raises_of_error he (by rw [State.getNibble, State.needVariant, decide_eq_false hv]; rfl)

end

end Sys2Proof.Machine

open Sys2Proof Sys2Proof.Machine Sys2Proof.Statements

/-- Settles O56: a command that completes records no fault, and one that faults does nothing else. -/
theorem faultsArePrecise : Obligations.FaultsArePrecise := by
  intro s i hf
  by_cases hk : effectKind i = .event
  · rcases exec_event_cases i s hk with ⟨hn, -⟩ | ⟨-, t, -, he, hkeep⟩ | ⟨-, c, -, -, he⟩
    · exact absurd hf hn
    · exact ⟨t, he, fun hn => absurd (noFault_of_keepsOutside hkeep hf) hn⟩
    · exact ⟨_, he, fun _ => ⟨fun _ => rfl, fun hev => absurd hk (effectKind_of_not_event hev)⟩⟩
  · rcases exec_command_cases i s hk with ⟨t, he, hl⟩ | ⟨c, -, he⟩
    · exact ⟨t, he, fun hn => absurd (noFault_of_leaves hl hf) hn⟩
    · rw [State.raise_of_noFault _ _ _ hf] at he
      exact ⟨_, he, fun _ => ⟨fun hev => absurd (effectKind_of_event hev) hk, fun _ => rfl⟩⟩

/-- Settles O57, by the four things a step can do. -/
theorem onlyCapstartAndResetClearFault : Obligations.OnlyCapstartAndResetClearFault := by
  intro s hf
  rcases step_cases s with ⟨hr, he⟩ | ⟨hr, hd, he⟩ | ⟨hr, why, rest, hd, he⟩ | ⟨hr, i, rest, hd, he⟩
  · exact ⟨_, he, fun _ => by simp, fun hlow => by simp [hr] at hlow⟩
  · exact ⟨s, he, by simp [hr, hd], fun _ _ => ⟨rfl, rfl⟩⟩
  · rw [State.takeIllegal, State.raise_of_fault _ _ _ (show (s.withPort rest).fcode ≠ .noFault from hf)] at he
    exact ⟨_, he, by simp [hr, hd], fun _ _ => ⟨rfl, rfl⟩⟩
  · by_cases hi : i = .capstart
    · subst hi
      exact ⟨_, he.trans (exec_capstart _), fun _ => by simp [State.captureStart], fun _ hno => absurd ⟨rest, hd⟩ hno⟩
    · obtain ⟨t, ht, hcode, hpos⟩ := exec_keeps_fault (s := s.withPort rest) hf hi
      exact ⟨t, he.trans ht, by simp [hr, hd, hi], fun _ _ => ⟨hcode, hpos⟩⟩

/-- Settles O44: the variant is the first check of the eight commands. -/
theorem otherVariantFaults : Obligations.OtherVariantFaults := by
  refine fun s arg => ⟨fun hv => ?_, fun hv => ?_⟩
  · have hne : s.cfg.variant ≠ .sf := by simp [hv]
    simp only [List.forall_mem_cons]
    exact ⟨raises_of_other_variant hne arg _ _ _ rfl, answer_raises_of_other_variant hne _ _ _ rfl,
      raises_of_other_variant hne arg _ _ _ rfl, answer_raises_of_other_variant hne _ _ _ rfl, nofun⟩
  · have hne : s.cfg.variant ≠ .df := by simp [hv]
    simp only [List.forall_mem_cons]
    exact ⟨raises_of_other_variant hne arg _ _ _ rfl, answer_raises_of_other_variant hne _ _ _ rfl,
      raises_of_other_variant hne arg _ _ _ rfl, answer_raises_of_other_variant hne _ _ _ rfl, nofun⟩
end
